-- ==== Sys2Proof/Word.lean ====
section
/-! DEFINITION. The word types of the block: the 8-bit byte and operation word, and the level of a line. -/

namespace Sys2Proof

/-- A captured byte, and an operation word `W[7:0]` (R7, R61). -/
abbrev Byte := BitVec 8

/-- The level of one observed line: a line level 1 is high, 0 is low (R60). -/
inductive Level where
  | low
  | high
deriving DecidableEq, Repr

end Sys2Proof
end

