-- ==== Sys2Proof/Config.lean ====
section
/-! DEFINITION. What one implementation of the block fixes: the capacities `N` and `M` and the reading of the
overflowing start condition, and the port widths that follow from them. -/

namespace Sys2Proof

/-- The parameters of the block (R6; 92_eei_decisions.md D1, D6). -/
structure Config where
  /-- `N`, the number of byte positions in one frame. -/
  N : Nat
  /-- `M`, the number of frames in the Frame Store. -/
  M : Nat
  /-- D6: false, a start condition that overflows the store ends `Idle` and not primed (R86); true, the reading
  D6 records and does not take, it ends `Started` and primed. -/
  overflowEndsStarted : Bool
deriving DecidableEq, Repr

/-- How many byte positions a frame has beyond the first.
DESIGN CHOICE: `N` is OPEN in the spec (R6), so nothing in Lean can tell its value (log 1); safe. -/
opaque Config.extraBytes : Nat

/-- How many frames the store has beyond the first.
DESIGN CHOICE: `M` is OPEN in the spec (R6), so nothing in Lean can tell its value (log 1); safe. -/
opaque Config.extraFrames : Nat

/-- The parameters of the machine that reset starts: `N >= 1` and `M >= 1` and nothing more is known (R6, log 1),
with the spec's reading of the overflowing start condition (R86, log 2). -/
def Config.machine : Config :=
  { N := Config.extraBytes + 1, M := Config.extraFrames + 1, overflowEndsStarted := false }

/-- `clog2(x)`, the least `w` such that `2^w >= x` (R7). -/
def clog2 (x : Nat) : Nat :=
  if x ≤ 1 then 0 else Nat.log2 (x - 1) + 1

/-- `BYW`, the width of `byteIndex` (R7). -/
def Config.byw (c : Config) : Nat := max 1 (clog2 (c.N + 1))

/-- `AIW`, the width of `activeIndex`, `selectedIndex` and `rd_frame` (R7, R191). -/
def Config.aiw (c : Config) : Nat := max 1 (clog2 c.M)

/-- The width of the frame count (R7, R191). -/
def Config.frameCountWidth (c : Config) : Nat := max 1 (clog2 (c.M + 1))

/-- The width of the input `rd_pos` (R191). -/
def Config.rdPosWidth (c : Config) : Nat := max 1 (clog2 c.N)

end Sys2Proof
end

