-- ==== Sys2Proof/Syntax.lean ====
section
/-! DEFINITION. The operations of the block, one constructor per row of the opcode map, and what the outside world
presents to it: the read-port inputs, the pins of one sample cycle, and one item of stimulus. -/

namespace Sys2Proof

/-- The ten operations of R62. -/
inductive Instr where
  /-- `NOP` (R130). -/
  | nop
  /-- `SDA_EDGE scl, sda`: a data-line transition, with the two levels its handler reads (R63, R80). -/
  | sdaEdge (scl sda : Level)
  /-- `SCL_RISE sda`: a rising clock-line transition, with the data level its handler reads (R63, R100). -/
  | sclRise (sda : Level)
  /-- `CMD_START` (R141). -/
  | cmdStart
  /-- `CMD_STOP` (R142). -/
  | cmdStop
  /-- `CMD_SEL_NEXT` (R125). -/
  | cmdSelNext
  /-- `CMD_SEL_PREV` (R126). -/
  | cmdSelPrev
  /-- `GET_FRAME_COUNT` (R123). -/
  | getFrameCount
  /-- `GET_BUS_STATE` (R124). -/
  | getBusState
  /-- `GET_FRAME`: frame index and byte position come from the read-port inputs, not from the word (R63, R122). -/
  | getFrame
deriving DecidableEq, Repr

/-- The read-port inputs `rd_frame` and `rd_pos` (R66, R191). -/
structure ReadSel where
  frame : Nat
  pos   : Nat
deriving DecidableEq, Repr

/-- The input pins of one sample cycle (R191), `clk` apart: one item is one rising edge of it. -/
structure Pins where
  /-- `rst_n`: `low` holds the block in reset (R190). -/
  rstN     : Level
  /-- `scl_i`, the clock line. -/
  sclI     : Level
  /-- `sda_i`, the data line. -/
  sdaI     : Level
  /-- `cmd_valid`: a host command is presented this cycle. -/
  cmdValid : Bool
  /-- `cmd_op`, the `opc` of that command. -/
  cmdOp    : BitVec 3
  /-- `rd_frame` and `rd_pos`. -/
  rd       : ReadSel
deriving DecidableEq, Repr

/-- One item of what the bus environment and the host do (R9). -/
inductive Stimulus where
  /-- An operation word of an event-level trace (R61, R67), with the read-port inputs present at that point. -/
  | word (w : Byte) (rd : ReadSel)
  /-- One pin-level sample cycle (R194). -/
  | cycle (p : Pins)
deriving DecidableEq, Repr

end Sys2Proof
end

