-- ==== Sys2Proof/WellFormed.lean ====
section
/-! DEFINITION. The checks on what is given to the machine: parameters in their range, operation words that are not
reserved, and read-port inputs that fit their ports. -/

namespace Sys2Proof

/-- `N >= 1` and `M >= 1` (R6). -/
def Config.wellFormed (c : Config) : Bool := decide (1 ≤ c.N) && decide (1 ≤ c.M)

/-- The 14 legal words of R65. -/
def legalWords : List Byte :=
  [0x00, 0x20, 0x21, 0x22, 0x23, 0x42, 0x43, 0x60, 0x80, 0xA0, 0xC0, 0xE0, 0xE1, 0xE2]

/-- The reserved words, from the enumeration of R64 (not from the decoder). -/
def reservedWord (w : Byte) : Bool :=
  decide (w &&& 0x1C ≠ 0) ||
    [0x01, 0x02, 0x03, 0x40, 0x41, 0x61, 0x62, 0x63, 0x81, 0x82, 0x83, 0xA1, 0xA2, 0xA3, 0xC1, 0xC2, 0xC3,
      0xE3].contains w

/-- Every operation written as an `Instr` is well formed: its operands are one-bit levels (R63), so no check is left
to make; every constructor is named so that a later operation cannot slip past. -/
def Instr.wellFormed : Instr → Bool
  | .nop => true
  | .sdaEdge _ _ => true
  | .sclRise _ => true
  | .cmdStart => true
  | .cmdStop => true
  | .cmdSelNext => true
  | .cmdSelPrev => true
  | .getFrameCount => true
  | .getBusState => true
  | .getFrame => true

/-- The read-port inputs fit the widths of `rd_frame` and `rd_pos` (R7, R191). -/
def ReadSel.fits (c : Config) (r : ReadSel) : Bool :=
  decide (r.frame < 2 ^ c.aiw) && decide (r.pos < 2 ^ c.rdPosWidth)

/-- A stimulus that the hardware's ports can carry and R64 does not reserve. -/
def Stimulus.wellFormed (c : Config) : Stimulus → Bool
  | .word w rd => !reservedWord w && rd.fits c
  | .cycle p => p.rd.fits c

end Sys2Proof
end

