-- ==== Sys2Proof/Decode.lean ====
section
/-! DEFINITION. The decoder of the operation word, the encoder, the opcode map as rows of mask and match, the command
port's decoder, and the assembler text of R67. -/

namespace Sys2Proof

/-- The level of a bit: 1 is high, 0 is low (R60). -/
def levelOfBit (b : Bool) : Level := if b then .high else .low

/-- The bit of a level, in bit 0 of a byte (R60). -/
def bitOfLevel : Level → Byte
  | .low => 0
  | .high => 1

/-- Why a word is reserved (R64). -/
inductive Reserved where
  /-- `W[4:2] != 000`. -/
  | zeroField
  /-- The fixed low bits of the row are not as R62 gives them. -/
  | lowBits
deriving DecidableEq, Repr

/-- What the decoder reads from a word. -/
inductive Decoded where
  | instr (i : Instr)
  | reserved (why : Reserved)
deriving DecidableEq, Repr

/-- `opc = W[7:5]` (R61). -/
def wordOpc (w : Byte) : BitVec 3 := w.extractLsb' 5 3

/-- `zero = W[4:2]` (R61). -/
def wordZero (w : Byte) : BitVec 3 := w.extractLsb' 2 3

/-- A row whose `W[1:0]` are both fixed at 0. -/
def lowBitsClear (c d : Bool) (i : Instr) : Decoded :=
  if c || d then .reserved .lowBits else .instr i

/-- The queries of `opc = 111`, by their selector `W[1:0]` (R61, R62). -/
def decodeQuery : Bool → Bool → Decoded
  | false, false => .instr .getFrameCount
  | false, true => .instr .getBusState
  | true, false => .instr .getFrame
  | true, true => .reserved .lowBits

/-- The decoder, in the order R62 gives: the zero field, then `opc`, then the fixed low bits of the row. -/
def decodeWord (w : Byte) : Decoded :=
  let c := w.getLsbD 1
  let d := w.getLsbD 0
  if wordZero w ≠ 0 then .reserved .zeroField
  else
    match (wordOpc w).toNat with
    | 0 => lowBitsClear c d .nop
    | 1 => .instr (.sdaEdge (levelOfBit c) (levelOfBit d))
    | 2 => if c then .instr (.sclRise (levelOfBit d)) else .reserved .lowBits
    | 3 => lowBitsClear c d .cmdStart
    | 4 => lowBitsClear c d .cmdStop
    | 5 => lowBitsClear c d .cmdSelNext
    | 6 => lowBitsClear c d .cmdSelPrev
    | _ => decodeQuery c d

/-- The word of an operation, from its `opc`, `c` and `d` (R61); the zero field is 000. -/
def packWord (opc : BitVec 3) (c d : Level) : Byte :=
  (opc.setWidth 8 <<< 5) ||| (bitOfLevel c <<< 1) ||| bitOfLevel d

/-- The encoder, from the opcode map of R62. -/
def encode : Instr → Byte
  | .nop => packWord 0b000 .low .low
  | .sdaEdge scl sda => packWord 0b001 scl sda
  | .sclRise sda => packWord 0b010 .high sda
  | .cmdStart => packWord 0b011 .low .low
  | .cmdStop => packWord 0b100 .low .low
  | .cmdSelNext => packWord 0b101 .low .low
  | .cmdSelPrev => packWord 0b110 .low .low
  | .getFrameCount => packWord 0b111 .low .low
  | .getBusState => packWord 0b111 .low .high
  | .getFrame => packWord 0b111 .high .low

/-- One row of the opcode map: a word `w` is of the row when `w` under the mask is the match. -/
structure OpRow where
  mnemonic : String
  pattern  : Byte
  mask     : Byte
deriving DecidableEq, Repr

/-- The rows of R62 as masks and matches. -/
def opcodeRows : List OpRow :=
  [⟨"NOP", 0x00, 0xFF⟩, ⟨"SDA_EDGE", 0x20, 0xFC⟩, ⟨"SCL_RISE", 0x42, 0xFE⟩, ⟨"CMD_START", 0x60, 0xFF⟩,
   ⟨"CMD_STOP", 0x80, 0xFF⟩, ⟨"CMD_SEL_NEXT", 0xA0, 0xFF⟩, ⟨"CMD_SEL_PREV", 0xC0, 0xFF⟩,
   ⟨"GET_FRAME_COUNT", 0xE0, 0xFF⟩, ⟨"GET_BUS_STATE", 0xE1, 0xFF⟩, ⟨"GET_FRAME", 0xE2, 0xFF⟩]

/-- The word is of the row. -/
def OpRow.fits (r : OpRow) (w : Byte) : Bool := decide (w &&& r.mask = r.pattern)

/-- The mnemonic of an operation (R62). -/
def Instr.mnemonic : Instr → String
  | .nop => "NOP"
  | .sdaEdge _ _ => "SDA_EDGE"
  | .sclRise _ => "SCL_RISE"
  | .cmdStart => "CMD_START"
  | .cmdStop => "CMD_STOP"
  | .cmdSelNext => "CMD_SEL_NEXT"
  | .cmdSelPrev => "CMD_SEL_PREV"
  | .getFrameCount => "GET_FRAME_COUNT"
  | .getBusState => "GET_BUS_STATE"
  | .getFrame => "GET_FRAME"

/-- A level as an operand of the assembler notation. -/
def levelText : Level → String
  | .low => "0"
  | .high => "1"

/-- One line of the assembler notation of R67; the operand of `GET_FRAME` is the input `rd_frame` (R63). -/
def assemblyText (i : Instr) (rd : ReadSel) : String :=
  match i with
  | .sdaEdge scl sda => i.mnemonic ++ " " ++ levelText scl ++ ", " ++ levelText sda
  | .sclRise sda => i.mnemonic ++ " " ++ levelText sda
  | .getFrame => i.mnemonic ++ " " ++ toString rd.frame
  | .nop => i.mnemonic
  | .cmdStart => i.mnemonic
  | .cmdStop => i.mnemonic
  | .cmdSelNext => i.mnemonic
  | .cmdSelPrev => i.mnemonic
  | .getFrameCount => i.mnemonic
  | .getBusState => i.mnemonic

/-- The command that `cmd_op` stands for on the command port; the reserved values 001, 010 and the queries' 111
cause no step (R64, R66, R191). -/
def commandOfPort (op : BitVec 3) : Option Instr :=
  match op.toNat with
  | 0 => some .nop
  | 3 => some .cmdStart
  | 4 => some .cmdStop
  | 5 => some .cmdSelNext
  | 6 => some .cmdSelPrev
  | _ => none

/-- The operation the decoder reads from the `nbits` bits `w` of a table row: there is one length, 8 bits (R61). -/
def decodeTableWord (nbits w : Nat) : Option Instr :=
  if nbits = 8 ∧ w < 256 then
    match decodeWord (BitVec.ofNat 8 w) with
    | .instr i => some i
    | .reserved _ => none
  else none

end Sys2Proof
end

