-- ==== Sys2Proof/Machine/State.lean ====
section
/-! DEFINITION. The state of the block as plain data, the reasons a step can stop, and the state after hardware
reset. -/

namespace Sys2Proof.Machine

/-- The Bus State (R11): 0 is `Idle`, 1 is `Started` (R60). -/
inductive BusState where
  | idle
  | started
deriving DecidableEq, Repr

/-- The Frame Store array with its per-frame cursors (R15 to R19, R40), each as a sparse list in canonical form: keys
strictly rising, no entry equal to zero, an unlisted key reads as zero (log 13). The key of element `(i, k)` is
`i * N + k`, the key of a cursor is its frame index `i`. -/
structure FrameStore where
  /-- `frames[i].bytes[k]`. -/
  bytes     : List Host.Cell
  /-- `frames[i].ack[k]`. -/
  acks      : List (Nat × Bool)
  /-- `frames[i].bitIndex`. -/
  bitIndex  : List (Nat × Nat)
  /-- `frames[i].byteIndex`. -/
  byteIndex : List (Nat × Nat)
deriving DecidableEq, Repr

/-- The store with every element and every cursor zero. -/
def FrameStore.empty : FrameStore := { bytes := [], acks := [], bitIndex := [], byteIndex := [] }

/-- The six registers of the pin-level front end (R22). -/
structure FrontEnd where
  sclM : Level
  sclS : Level
  sclP : Level
  sdaM : Level
  sdaS : Level
  sdaP : Level
deriving DecidableEq, Repr

/-- The front end after hardware reset: every register 1, the level of an idle bus (R24, R190; log 12). -/
def FrontEnd.idleBus : FrontEnd :=
  { sclM := .high, sclS := .high, sclP := .high, sdaM := .high, sdaS := .high, sdaP := .high }

/-- The conditions an operation can note (R160 to R164); none changes state by itself. -/
inductive Condition where
  /-- X1, raised by `SDA_EDGE` (R161). -/
  | capacityOverflow
  /-- X2, raised by `SDA_EDGE` (R162). -/
  | spuriousEdge
  /-- X3, raised by `CMD_START` (R163). -/
  | doubleStart
  /-- X4, raised by `SCL_RISE` (R164). -/
  | frameFull
deriving DecidableEq, Repr

/-- The read outputs `rd_byte`, `rd_ack` and `rd_byte_index` (R191). -/
structure ReadData where
  rdByte      : Byte
  rdAck       : Bool
  rdByteIndex : Nat
deriving DecidableEq, Repr

/-- The frame snapshot of R69. -/
structure Snapshot where
  bytes     : List Byte
  ack       : List Bool
  byteIndex : Nat
deriving DecidableEq, Repr

/-- What a query step observes (R122 to R124). -/
inductive Reply where
  | frameCount (count : Nat)
  | busState (b : BusState)
  /-- The element the read port shows, and the record as it stands in this one step; a snapshot taken by several steps
  is a sequence of such elements (R48; log 10). -/
  | frame (element : ReadData) (record : Snapshot)
deriving DecidableEq, Repr

/-- What the latest step showed to the outside, and the count of redraw pulses that a run reports (R203). No meaning
reads it. DESIGN CHOICE: the block records none of it (log 11); safe. -/
structure Observed where
  /-- Output `redraw` of the latest step (R171). -/
  redraw  : Bool
  /-- The number of `redraw` pulses so far. -/
  redraws : Nat
  /-- The conditions the latest step noted, oldest first. -/
  noted   : List Condition
  /-- What the latest step observed, if it was a query. -/
  reply   : Option Reply
deriving DecidableEq, Repr

/-- The state of the machine: the state of 10_state.md, the parameters it runs under, its outputs and inputs. -/
structure State where
  /-- The parameters; no step writes them (R6; log 1). -/
  cfg           : Config
  /-- R10: true is `Capturing`, false is `Stopped`. -/
  capturing     : Bool
  /-- R11. -/
  busState      : BusState
  /-- R12. -/
  primed        : Bool
  /-- R13. -/
  activeIndex   : Nat
  /-- R14. -/
  selectedIndex : Nat
  /-- R15 to R19. -/
  store         : FrameStore
  /-- R22. -/
  frontEnd      : FrontEnd
  /-- The read-port inputs as they are presented (R191; log 16). -/
  rd            : ReadSel
  /-- What the environment and the host do next, oldest first (R9, R67; log 4). -/
  stimuli       : List Stimulus
  /-- What the latest step showed (log 11). -/
  obs           : Observed
deriving DecidableEq, Repr

/-- No operation ever faults (R160): there is no reason to stop with one. -/
inductive Fault where
deriving DecidableEq, Repr

/-- Why the machine has no step to take. -/
inductive Refusal where
  /-- Raised by `exec` for an operation that has no meaning yet; safe. -/
  | notModelled (mnemonic : String)
  /-- Raised by `step` for a reserved word of an event trace, which a trace decoder reports as invalid and gives no
  step (R64); safe. -/
  | reservedWord (w : Byte) (why : Reserved)
deriving DecidableEq, Repr

/-- The state after hardware reset under given parameters: the table of R24, second column (R190). The last three
fields are the model's own (log 4, log 11, log 16). -/
def State.resetOf (c : Config) : State :=
  { cfg := c
    capturing := false
    busState := .idle
    primed := false
    activeIndex := 0
    selectedIndex := 0
    store := FrameStore.empty
    frontEnd := FrontEnd.idleBus
    rd := { frame := 0, pos := 0 }
    stimuli := []
    obs := { redraw := false, redraws := 0, noted := [], reply := none } }

/-- The machine right after hardware reset (R24, R190). -/
def State.reset : State := State.resetOf Config.machine

end Sys2Proof.Machine
end

