-- ==== Sys2Proof/Machine/Ops.lean ====
section
/-! DEFINITION. The shared operations: the sparse memory, the elements and cursors of the Frame Store, `FS_RESET()`,
noting a condition, pulsing redraw, answering a query, and the read port. -/

namespace Sys2Proof.Machine

/-- The value at a key of a sparse memory whose unlisted keys read as `d`. -/
def Memory.read {α : Type} (d : α) : List (Nat × α) → Nat → α
  | [], _ => d
  | (a, v) :: m, x => if a = x then v else Memory.read d m x

/-- Put a cell before the first greater key. -/
def Memory.place {α : Type} (x : Nat) (v : α) : List (Nat × α) → List (Nat × α)
  | [] => [(x, v)]
  | (a, u) :: m => if x < a then (x, v) :: (a, u) :: m else (a, u) :: Memory.place x v m

/-- Take every cell of a key away. -/
def Memory.erase {α : Type} (x : Nat) (m : List (Nat × α)) : List (Nat × α) :=
  m.filter fun c => decide (c.1 ≠ x)

/-- Write a key; writing what an unlisted key reads as leaves it unlisted, so the form stays canonical. -/
def Memory.write {α : Type} [DecidableEq α] (d : α) (m : List (Nat × α)) (x : Nat) (v : α) : List (Nat × α) :=
  if v = d then Memory.erase x m else Memory.place x v (Memory.erase x m)

/-- The canonical form: keys strictly rising, no listed value equal to `d`. -/
abbrev Memory.wf {α : Type} [DecidableEq α] (d : α) (m : List (Nat × α)) : Prop :=
  (m.map Prod.fst).Pairwise (· < ·) ∧ ∀ c ∈ m, c.2 ≠ d

/-- The four memories of the Frame Store are in canonical form. -/
abbrev FrameStore.wf (f : FrameStore) : Prop :=
  Memory.wf 0 f.bytes ∧ Memory.wf false f.acks ∧ Memory.wf 0 f.bitIndex ∧ Memory.wf 0 f.byteIndex

/-- The key of element `(i, k)` of the Frame Store (R40; log 13). -/
def State.elementKey (s : State) (i k : Nat) : Nat := i * s.cfg.N + k

/-- `frames[i].bytes[k]` (R16). -/
def State.byteAt (s : State) (i k : Nat) : Byte := Memory.read 0 s.store.bytes (s.elementKey i k)

/-- `frames[i].ack[k]` (R17). -/
def State.ackAt (s : State) (i k : Nat) : Bool := Memory.read false s.store.acks (s.elementKey i k)

/-- `frames[i].bitIndex` (R18). -/
def State.bitIndexOf (s : State) (i : Nat) : Nat := Memory.read 0 s.store.bitIndex i

/-- `frames[i].byteIndex` (R19). -/
def State.byteIndexOf (s : State) (i : Nat) : Nat := Memory.read 0 s.store.byteIndex i

/-- `frames[i].bytes[k] <- v`. -/
def State.setByte (s : State) (i k : Nat) (v : Byte) : State :=
  { s with store := { s.store with bytes := Memory.write 0 s.store.bytes (s.elementKey i k) v } }

/-- `frames[i].ack[k] <- v`. -/
def State.setAck (s : State) (i k : Nat) (v : Bool) : State :=
  { s with store := { s.store with acks := Memory.write false s.store.acks (s.elementKey i k) v } }

/-- `frames[i].bitIndex <- v`. -/
def State.setBitIndex (s : State) (i v : Nat) : State :=
  { s with store := { s.store with bitIndex := Memory.write 0 s.store.bitIndex i v } }

/-- `frames[i].byteIndex <- v`. -/
def State.setByteIndex (s : State) (i v : Nat) : State :=
  { s with store := { s.store with byteIndex := Memory.write 0 s.store.byteIndex i v } }

/-- The bit cursor of the frame `currentFrame()` gives (R121). -/
def State.activeBit (s : State) : Nat := s.bitIndexOf s.activeIndex

/-- The byte cursor of the frame `currentFrame()` gives (R121). -/
def State.activeByte (s : State) : Nat := s.byteIndexOf s.activeIndex

/-- `FS_RESET()` (R120): every frame, index and state zero; `capturing`, the front end and redraw are not written. -/
def State.fsReset (s : State) : State :=
  { s with
    busState := .idle, primed := false, activeIndex := 0, selectedIndex := 0, store := FrameStore.empty }

/-- `note X<n>`: the condition held (R160); no state of the block changes. -/
def State.note (s : State) (x : Condition) : State :=
  { s with obs := { s.obs with noted := s.obs.noted ++ [x] } }

/-- `pulse redraw` (R171): high for this step; two pulses count as two. -/
def State.pulseRedraw (s : State) : State :=
  { s with obs := { s.obs with redraw := true, redraws := s.obs.redraws + 1 } }

/-- A query's answer is observed; no state of the block changes (R47). -/
def State.answer (s : State) (r : Reply) : State := { s with obs := { s.obs with reply := some r } }

/-- Begin a step: the outputs of the step before are gone (redraw is not latched, R171), the read-port inputs are those
presented now, and `rest` is what is still to come. -/
def State.beginStep (s : State) (rd : ReadSel) (rest : List Stimulus) : State :=
  { s with
    rd := rd, stimuli := rest
    obs := { s.obs with redraw := false, noted := [], reply := none } }

/-- The block held in hardware reset (R190): the registers of R24 at their reset values. The parameters, the inputs,
and the count of redraw pulses, which are no registers of the block, stand (log 14). -/
def State.hardReset (s : State) : State :=
  { State.resetOf s.cfg with rd := s.rd, stimuli := s.stimuli, obs := { s.obs with redraw := false } }

/-- The read port at inputs `i` and `k` (R122, R46): an index out of range addresses nothing and every output is zero.
DEDUCED: `rd_byte_index` too is zero for `k >= N` (R122 and R46 against the port list of R191; log 9). -/
def State.readPort (s : State) (i k : Nat) : ReadData :=
  if i < s.cfg.M ∧ k < s.cfg.N then
    { rdByte := s.byteAt i k, rdAck := s.ackAt i k, rdByteIndex := s.byteIndexOf i }
  else { rdByte := 0, rdAck := false, rdByteIndex := 0 }

/-- The record `getFrame(i)` of R69 and R122 as it stands in one step: its elements are those the read port shows. -/
def State.snapshot (s : State) (i : Nat) : Snapshot :=
  { bytes := (List.range s.cfg.N).map fun k => (s.readPort i k).rdByte
    ack := (List.range s.cfg.N).map fun k => (s.readPort i k).rdAck
    byteIndex := if i < s.cfg.M then s.byteIndexOf i else 0 }

/-- `getFrameCount()` (R123). -/
def State.frameCount (s : State) : Nat := s.activeIndex + 1

/-- The output ports of R191, `redraw` apart, which belongs to the step and not to the state. -/
structure Ports where
  read          : ReadData
  frameCount    : Nat
  activeIndex   : Nat
  selectedIndex : Nat
  busState      : BusState
  capturing     : Bool
deriving DecidableEq, Repr

/-- The outputs as combinational functions of the current state and the `rd_*` inputs (R191). -/
def State.ports (s : State) (rd : ReadSel) : Ports :=
  { read := s.readPort rd.frame rd.pos
    frameCount := s.frameCount
    activeIndex := s.activeIndex
    selectedIndex := s.selectedIndex
    busState := s.busState
    capturing := s.capturing }

end Sys2Proof.Machine
end

