-- ==== Sys2Proof/Machine/Operands.lean ====
section
/-! DEFINITION. The operand forms: the sampled data level shifted into a byte, the read-port operands of `GET_FRAME`,
the meaning of the address byte, and the pseudo-operations of the trace notation. -/

namespace Sys2Proof.Machine

/-- `((b << 1) | sda)[7:0]`: most significant bit first (R43, R102). -/
def shiftIn (b : Byte) (sda : Level) : Byte := (b <<< 1) ||| bitOfLevel sda

/-- The frame index operand of `GET_FRAME`, from the read-port inputs (R63). -/
def State.frameOperand (s : State) : Nat := s.rd.frame

/-- The byte position operand of `GET_FRAME` at the pin level, from the read-port inputs (R63). -/
def State.posOperand (s : State) : Nat := s.rd.pos

/-- How a reader takes `bytes[0]`: the 7-bit address `bytes[0][7:1]` (R70). The block computes it nowhere. -/
def addressField (b : Byte) : BitVec 7 := b.extractLsb' 1 7

/-- How a reader takes `bytes[0]`: bit 0 set is a read (R70). The block computes it nowhere. -/
def isRead (b : Byte) : Bool := b.getLsbD 0

/-- `BUS_START` (R68). -/
def busStart : Instr := .sdaEdge .high .low

/-- `BUS_STOP` (R68). -/
def busStop : Instr := .sdaEdge .high .high

/-- `BUS_BIT b` (R68). -/
def busBit (b : Level) : Instr := .sclRise b

/-- `SDA_SETUP b` (R68). -/
def sdaSetup (b : Level) : Instr := .sdaEdge .low b

/-- The nine clocks of `BUS_BYTE v, ACK` (ninth level low) and `BUS_BYTE v, NACK` (ninth level high) (R68). -/
def busByte (v : Byte) (ninth : Level) : List Instr :=
  [busBit (levelOfBit (v.getLsbD 7)), busBit (levelOfBit (v.getLsbD 6)), busBit (levelOfBit (v.getLsbD 5)),
   busBit (levelOfBit (v.getLsbD 4)), busBit (levelOfBit (v.getLsbD 3)), busBit (levelOfBit (v.getLsbD 2)),
   busBit (levelOfBit (v.getLsbD 1)), busBit (levelOfBit (v.getLsbD 0)), busBit ninth]

end Sys2Proof.Machine
end

