-- ==== Sys2Proof/Machine/Flags.lean ====
section
/-! DEFINITION. The flag computations: the ACK flag, and the conditions on `busState`, `primed` and the two lines that
the bus state machine decides by. -/

namespace Sys2Proof.Machine

/-- `ack[byteIndex] = (level == low)` (R103). -/
def ackOfLevel : Level → Bool
  | .low => true
  | .high => false

/-- The outcomes of the three-way test of `SDA_EDGE` (R80). -/
inductive EdgeKind where
  /-- The clock line reads low (R81). -/
  | spurious
  /-- A stop condition (R82). -/
  | stop
  /-- A start condition (R83). -/
  | start
  /-- No test matches (R87). -/
  | nothing
deriving DecidableEq, Repr

/-- The START/STOP condition detector: the test of R80 in its own order. -/
def edgeKind (scl sda : Level) (b : BusState) : EdgeKind :=
  if scl = .low then .spurious
  else if b = .started ∧ sda = .high then .stop
  else if sda = .low then .start
  else .nothing

/-- What a start condition does beyond setting the Bus State (R84 to R86). -/
inductive StartKind where
  | priming
  | overflow
  | nextFrame
deriving DecidableEq, Repr

/-- Which of R84, R86 and R85 applies. -/
def State.startKind (s : State) : StartKind :=
  if s.primed = false then .priming
  else if s.activeIndex + 1 ≥ s.cfg.M then .overflow
  else .nextFrame

/-- What a clock-line rising edge does (R109). -/
inductive ClockKind where
  | ignored
  | full
  | dataBit
  | ackBit
deriving DecidableEq, Repr

/-- The test of R100 in its own order. DEDUCED: the frame counts as full from `N` bytes on (R46), which is the same as
at `N` where `byteIndex <= N` holds (log 8); safe. -/
def State.clockKind (s : State) : ClockKind :=
  if s.busState = .idle then .ignored
  else if s.cfg.N ≤ s.activeByte then .full
  else if s.activeBit < 8 then .dataBit
  else .ackBit

end Sys2Proof.Machine
end

