-- ==== Sys2Proof/Machine/BitByteAssembler.lean ====
section
/-! DEFINITION. The Bit/Byte Assembler: the meaning of `SCL_RISE` (41_bit_byte_assembler.md). -/

namespace Sys2Proof.Machine

/-- A data bit goes into the byte under assembly (R102). -/
def State.takeDataBit (sda : Level) (s : State) : State :=
  (s.setByte s.activeIndex s.activeByte (shiftIn (s.byteAt s.activeIndex s.activeByte) sda)).setBitIndex
    s.activeIndex (s.activeBit + 1)

/-- The ninth clock: the ack flag is written before `byteIndex` is incremented (R103, R53). -/
def State.takeAckBit (sda : Level) (s : State) : State :=
  ((s.setAck s.activeIndex s.activeByte (ackOfLevel sda)).setByteIndex s.activeIndex
    (s.activeByte + 1)).setBitIndex s.activeIndex 0

/-- The step of the clock-line handler while capturing (R100). -/
def State.clockRise (sda : Level) (s : State) : State :=
  match s.clockKind with
  | .ignored => s
  | .full => s.note .frameFull
  | .dataBit => s.takeDataBit sda
  | .ackBit => s.takeAckBit sda

/-- `SCL_RISE sda` (R100), gated by the session (R143). -/
def execSclRise (sda : Level) (s : State) : Host.Outcome State Fault Refusal :=
  .next (if s.capturing then s.clockRise sda else s)

end Sys2Proof.Machine
end

