-- ==== Sys2Proof/Machine/BusStateMachine.lean ====
section
/-! DEFINITION. The Bus State Machine: the meaning of `SDA_EDGE` (40_bus_state_machine.md). -/

namespace Sys2Proof.Machine

/-- The end of the step of an overflowing start condition: X1 is noted and `FS_RESET()` is the last action (R86). Under
the reading D6 records and does not take, the step ends `Started` and primed (log 2). -/
def State.overflowStart (s : State) : State :=
  if s.cfg.overflowEndsStarted then
    { (s.note .capacityOverflow).fsReset with busState := .started, primed := true }
  else (s.note .capacityOverflow).fsReset

/-- A start condition (R83 to R86). -/
def State.startCondition (s : State) : State :=
  match s.startKind with
  | .priming => { s with busState := .started, primed := true }
  | .overflow => s.overflowStart
  | .nextFrame => { s with busState := .started, activeIndex := s.activeIndex + 1 }

/-- A stop condition (R82, R89). -/
def State.stopCondition (s : State) : State := { s with busState := .idle }.pulseRedraw

/-- The step of the data-line handler while capturing (R80). -/
def State.dataEdge (scl sda : Level) (s : State) : State :=
  match edgeKind scl sda s.busState with
  | .spurious => s.note .spuriousEdge
  | .stop => s.stopCondition
  | .start => s.startCondition
  | .nothing => s

/-- `SDA_EDGE scl, sda` (R80), gated by the session (R143). -/
def execSdaEdge (scl sda : Level) (s : State) : Host.Outcome State Fault Refusal :=
  .next (if s.capturing then s.dataEdge scl sda else s)

end Sys2Proof.Machine
end

