-- ==== Sys2Proof/Machine/FrameQueries.lean ====
section
/-! DEFINITION. The Frame Store controller's queries, selection commands and no-operation (42_frame_store.md). -/

namespace Sys2Proof.Machine

/-- `NOP` (R130). -/
def execNop (s : State) : Host.Outcome State Fault Refusal := .next s

/-- `CMD_SEL_NEXT`: one step on, clamped at `activeIndex` (R125). -/
def execCmdSelNext (s : State) : Host.Outcome State Fault Refusal :=
  .next { s with selectedIndex := min (s.selectedIndex + 1) s.activeIndex }

/-- `CMD_SEL_PREV`: one step back, clamped at 0 (R126; subtraction on naturals stops at 0). -/
def execCmdSelPrev (s : State) : Host.Outcome State Fault Refusal :=
  .next { s with selectedIndex := s.selectedIndex - 1 }

/-- `GET_FRAME_COUNT` (R123). -/
def execGetFrameCount (s : State) : Host.Outcome State Fault Refusal :=
  .next (s.answer (.frameCount s.frameCount))

/-- `GET_BUS_STATE` (R124). -/
def execGetBusState (s : State) : Host.Outcome State Fault Refusal :=
  .next (s.answer (.busState s.busState))

/-- `GET_FRAME`: the element at the read-port inputs, and the record of that frame as it stands (R122; log 10). -/
def execGetFrame (s : State) : Host.Outcome State Fault Refusal :=
  .next (s.answer (.frame (s.readPort s.frameOperand s.posOperand) (s.snapshot s.frameOperand)))

end Sys2Proof.Machine
end

