-- ==== Sys2Proof/Machine/Session.lean ====
section
/-! DEFINITION. The Capture Session Controller: the meanings of `CMD_START` and `CMD_STOP` (43_session_controller.md). -/

namespace Sys2Proof.Machine

/-- `CMD_START`: `FS_RESET()` first, then capturing (R141); while capturing it notes X3 and changes nothing (R145;
log 3). -/
def execCmdStart (s : State) : Host.Outcome State Fault Refusal :=
  .next (if s.capturing then s.note .doubleStart else { s.fsReset with capturing := true })

/-- `CMD_STOP`: capturing ends and everything else is kept (R142, R146); while stopped it changes nothing (R150). -/
def execCmdStop (s : State) : Host.Outcome State Fault Refusal :=
  .next (if s.capturing then { s with capturing := false } else s)

end Sys2Proof.Machine
end

