-- ==== Sys2Proof/Machine/Dispatch.lean ====
section
/-! DEFINITION. The dispatch of every operation to its meaning. -/

namespace Sys2Proof.Machine

def exec (i : Instr) (s : State) : Host.Outcome State Fault Refusal :=
  match i with
  | .nop => Sys2Proof.Machine.execNop s
  | .sdaEdge scl sda => Sys2Proof.Machine.execSdaEdge scl sda s
  | .sclRise sda => Sys2Proof.Machine.execSclRise sda s
  | .cmdStart => Sys2Proof.Machine.execCmdStart s
  | .cmdStop => Sys2Proof.Machine.execCmdStop s
  | .cmdSelNext => Sys2Proof.Machine.execCmdSelNext s
  | .cmdSelPrev => Sys2Proof.Machine.execCmdSelPrev s
  | .getFrameCount => Sys2Proof.Machine.execGetFrameCount s
  | .getBusState => Sys2Proof.Machine.execGetBusState s
  | .getFrame => Sys2Proof.Machine.execGetFrame s

end Sys2Proof.Machine
end

