-- ==== Sys2Proof/Machine/PinCycle.lean ====
section
/-! DEFINITION. The pin-level sample cycle (R194): the front end's events, the order of the operations that fall in one
cycle, and the shift of the front-end registers. -/

namespace Sys2Proof.Machine

/-- The operations in turn, each a whole step that sees the state the earlier one left (R8, R168). -/
def execAll : List Instr → State → Host.Outcome State Fault Refusal
  | [], s => .next s
  | i :: is, s =>
    match exec i s with
    | .next t => execAll is t
    | .fault r => .fault r
    | .refused r => .refused r

/-- `scl_rise` and its operand, from the registered levels (R165). -/
def State.sclRiseEvent (s : State) : Option Instr :=
  if s.capturing ∧ s.frontEnd.sclP = .low ∧ s.frontEnd.sclS = .high then some (.sclRise s.frontEnd.sdaS) else none

/-- `sda_edge` and its operands, from the registered levels (R165). -/
def State.sdaEdgeEvent (s : State) : Option Instr :=
  if s.capturing ∧ s.frontEnd.sdaP ≠ s.frontEnd.sdaS then some (.sdaEdge s.frontEnd.sclS s.frontEnd.sdaS) else none

/-- The command on the port this cycle (R66, R191). -/
def commandOfPins (p : Pins) : Option Instr := if p.cmdValid then commandOfPort p.cmdOp else none

/-- The operations of one cycle in the fixed order of R168; both bus events are gated by `capturing` as it stands at
the start of the cycle. -/
def State.cycleOps (s : State) (p : Pins) : List Instr :=
  s.sclRiseEvent.toList ++ s.sdaEdgeEvent.toList ++ (commandOfPins p).toList

/-- The shift of the front-end registers, capturing or not (R22). -/
def FrontEnd.shift (f : FrontEnd) (scl sda : Level) : FrontEnd :=
  { sclP := f.sclS, sclS := f.sclM, sclM := scl, sdaP := f.sdaS, sdaS := f.sdaM, sdaM := sda }

/-- One rising edge of `clk` (R194), or the block held in reset (R190; log 14). -/
def sampleCycle (p : Pins) (s : State) : Host.Outcome State Fault Refusal :=
  if p.rstN = .low then .next s.hardReset
  else
    match execAll (s.cycleOps p) s with
    | .next t => .next { t with frontEnd := s.frontEnd.shift p.sclI p.sdaI }
    | .fault r => .fault r
    | .refused r => .refused r

end Sys2Proof.Machine
end

