-- ==== Sys2Proof/Machine/Stimuli.lean ====
section
/-! DEFINITION. Taking the next item of stimulus: what a step does for a word, for a sample cycle, and for none. -/

namespace Sys2Proof.Machine

/-- The step of one operation word of a trace: decoded and executed, or refused when reserved (R64). -/
def wordStep (w : Byte) (rd : ReadSel) (rest : List Stimulus) (s : State) : Host.Outcome State Fault Refusal :=
  match decodeWord w with
  | .instr i => exec i (s.beginStep rd rest)
  | .reserved why => .refused (.reservedWord w why)

/-- The step of one pin-level sample cycle. -/
def cycleStep (p : Pins) (rest : List Stimulus) (s : State) : Host.Outcome State Fault Refusal :=
  sampleCycle p (s.beginStep p.rd rest)

/-- The step when nothing is given to do: the block never halts (R203) and a cycle with no event and no command is a
`NOP` (R130, R194; log 5). -/
def idleStep (s : State) : Host.Outcome State Fault Refusal := exec .nop (s.beginStep s.rd [])

/-- The word of a table row put first among the stimuli, with the read-port inputs as they are. -/
def State.pushWord (s : State) (w : Nat) : State :=
  { s with stimuli := .word (BitVec.ofNat 8 w) s.rd :: s.stimuli }

end Sys2Proof.Machine
end

