-- ==== Sys2Proof/Machine/Step.lean ====
section
/-! DEFINITION. One step of the machine: the next item of stimulus takes its step. -/

namespace Sys2Proof.Machine

/-- One step (R8). Which agent moves next is the head of `stimuli` (R9; log 4). -/
def step (s : State) : Host.Outcome State Fault Refusal :=
  match s.stimuli with
  | [] => idleStep s
  | .word w rd :: rest => wordStep w rd rest s
  | .cycle p :: rest => cycleStep p rest s

/-- The word `w` stored where `step` takes its next operation: first among the stimuli (log 4). Every operation is one
8-bit word (R61), so the number of bits is not looked at. -/
def State.withFetchWord (s : State) (_nbits w : Nat) : State := s.pushWord w

end Sys2Proof.Machine
end

