-- ==== Sys2Proof/Safety.lean ====
section
/-! DEFINITION. The terms claims use: the invariants of R20, what a captured element is, the part of the state the
decoder works on, and the duties the spec leaves to the host. -/

namespace Sys2Proof.Machine

/-- Every listed key of the Frame Store names an element or a frame that exists (R40). -/
structure FrameStore.InRange (c : Config) (f : FrameStore) : Prop where
  bytes     : ∀ e ∈ f.bytes, e.1 < c.M * c.N
  acks      : ∀ e ∈ f.acks, e.1 < c.M * c.N
  bitIndex  : ∀ e ∈ f.bitIndex, e.1 < c.M
  byteIndex : ∀ e ∈ f.byteIndex, e.1 < c.M

/-- The invariants of R20, items 1 to 9 in its order, with the range of the parameters (R6) and the canonical form
and the key range of the store (log 13). -/
structure BlockInv (s : State) : Prop where
  /-- R6. -/
  params        : 1 ≤ s.cfg.N ∧ 1 ≤ s.cfg.M
  /-- Log 13. -/
  canonical     : s.store.wf
  /-- Log 13, for the elements of R40. -/
  inRange       : s.store.InRange s.cfg
  /-- R20 (1). -/
  activeBound   : s.activeIndex < s.cfg.M
  /-- R20 (2). -/
  byteBound     : ∀ i < s.cfg.M, s.byteIndexOf i ≤ s.cfg.N
  /-- R20 (3), first half. -/
  bitBound      : ∀ i < s.cfg.M, s.bitIndexOf i ≤ 8
  /-- R20 (4). -/
  selectedBound : s.selectedIndex ≤ s.activeIndex
  /-- R20 (5). -/
  unprimed      : s.primed = false → s.busState = .idle ∧ s.activeIndex = 0
  /-- R20 (6). -/
  aboveClear    : ∀ i < s.cfg.M, s.activeIndex < i → s.bitIndexOf i = 0 ∧ s.byteIndexOf i = 0 ∧
    ∀ k < s.cfg.N, s.byteAt i k = 0 ∧ s.ackAt i k = false
  /-- R20 (7). -/
  unwrittenClear : ∀ i < s.cfg.M, ∀ k < s.cfg.N,
    (s.byteIndexOf i ≤ k → s.ackAt i k = false) ∧ (s.byteIndexOf i < k → s.byteAt i k = 0)
  /-- R20 (8). -/
  partialByte   : ∀ i < s.cfg.M, s.byteIndexOf i < s.cfg.N →
    (s.byteAt i (s.byteIndexOf i)).toNat < 2 ^ s.bitIndexOf i
  /-- R20 (9). -/
  fullFrame     : ∀ i < s.cfg.M, s.byteIndexOf i = s.cfg.N → s.bitIndexOf i = 0

/-- Element `(i, k)` is captured data, which a reader may take (R49, R197). -/
abbrev State.Captured (s : State) (i k : Nat) : Prop := i ≤ s.activeIndex ∧ k < s.byteIndexOf i

/-- Two states show the same contents of frame `i` (R15 to R19). -/
def SameFrame (s t : State) (i : Nat) : Prop :=
  (∀ k < s.cfg.N, t.byteAt i k = s.byteAt i k ∧ t.ackAt i k = s.ackAt i k) ∧
    t.bitIndexOf i = s.bitIndexOf i ∧ t.byteIndexOf i = s.byteIndexOf i

/-- The store as `FS_RESET()` leaves it, with its indices and states (R120). -/
def State.Cleared (s : State) : Prop :=
  s.store = FrameStore.empty ∧ s.activeIndex = 0 ∧ s.selectedIndex = 0 ∧ s.busState = .idle ∧ s.primed = false

/-- What decoding has produced, read-out aside: the state that neither a query nor a selection command may change. -/
def State.decoderPart (s : State) : State :=
  { s with selectedIndex := 0, rd := { frame := 0, pos := 0 }, obs := { s.obs with reply := none } }

/-- The queries and the selection commands: what the display side issues (R9, R127). -/
def isReadOut : Instr → Bool
  | .nop => false
  | .sdaEdge _ _ => false
  | .sclRise _ => false
  | .cmdStart => false
  | .cmdStop => false
  | .cmdSelNext => true
  | .cmdSelPrev => true
  | .getFrameCount => true
  | .getBusState => true
  | .getFrame => true

/-- The host's duty before `CMD_START` (R193). -/
abbrev State.HostMayStart (s : State) : Prop := s.capturing = false

/-- A run of `k` steps that ends in `t`, no step of it refused. -/
def RunsTo (k : Nat) (s t : State) : Prop := Sys2Proof.core.run k s = .next t

/-- `k` start conditions one after another, each with the clock line high and the data line low (R83). -/
def startConditions (k : Nat) : List Instr := List.replicate k busStart

end Sys2Proof.Machine
end

