-- ==== Sys2Proof/Certificates/Slice0/Obligations.lean ====
section
/-! DEFINITION. The statements for the provers, each with the rule of spec/ it formalises or rests on. -/

open Sys2Proof Sys2Proof.Machine

/-! ### Encodings -/

/-- 30_encoding.md section 2: no bit of an encoding is dropped. -/
def Obligations.EncodeThenDecodeGivesTheOperation : Prop :=
  ∀ i : Instr, decodeWord (encode i) = .instr i

/-- 30_encoding.md section 2: each legal word has one meaning. -/
def Obligations.DecodeThenEncodeGivesTheWord : Prop :=
  ∀ (w : Byte) (i : Instr), decodeWord w = .instr i → encode i = w

/-- R65. -/
def Obligations.LegalWordsAreExactlyTheFourteen : Prop :=
  (∀ w : Byte, (∃ i, decodeWord w = .instr i) ↔ w ∈ legalWords) ∧
  legalWords = [0x00, 0x20, 0x21, 0x22, 0x23, 0x42, 0x43, 0x60, 0x80, 0xA0, 0xC0, 0xE0, 0xE1, 0xE2] ∧
  (∀ i : Instr, i.mnemonic ∈ opcodeRows.map OpRow.mnemonic) ∧
  (opcodeRows.map OpRow.mnemonic).Nodup ∧ opcodeRows.length = 10 ∧
  legalWords.Nodup ∧ legalWords.length = 14 ∧ 256 - legalWords.length = 242 ∧
  (∀ w : Byte, w ∉ legalWords → ∃ why, decodeWord w = .reserved why)

/-- 30_encoding.md section 2: words written out bit by bit from the patterns of the opcode map. -/
def Obligations.PatternsOfTheOpcodeMapDecode : Prop :=
  decodeWord 0b00000000 = .instr .nop ∧
  decodeWord 0b00100010 = .instr (.sdaEdge .high .low) ∧
  decodeWord 0b00100001 = .instr (.sdaEdge .low .high) ∧
  decodeWord 0b01000010 = .instr (.sclRise .low) ∧
  decodeWord 0b01000011 = .instr (.sclRise .high) ∧
  decodeWord 0b01100000 = .instr .cmdStart ∧
  decodeWord 0b10000000 = .instr .cmdStop ∧
  decodeWord 0b10100000 = .instr .cmdSelNext ∧
  decodeWord 0b11000000 = .instr .cmdSelPrev ∧
  decodeWord 0b11100000 = .instr .getFrameCount ∧
  decodeWord 0b11100001 = .instr .getBusState ∧
  decodeWord 0b11100010 = .instr .getFrame

/-- 30_encoding.md section 2 and opcode_table.json: at most one row fits a word, and the decoder reads that row. -/
def Obligations.DecoderReadsTheRowThatFits : Prop :=
  ∀ w : Byte, (opcodeRows.filter fun r => r.fits w).map OpRow.mnemonic =
    match decodeWord w with
    | .instr i => [i.mnemonic]
    | .reserved _ => []

/-! ### Steps -/

/-- The model's own (log 4, log 11), on 00_scope.md section 5: the word at the head of the stimuli is decoded and
executed; around it the step drops the word from the stimuli, presents its read-port inputs, and clears what the step
before showed. -/
def Obligations.StepExecutesTheDecodedWord : Prop :=
  ∀ (s : State) (w : Byte) (rd : ReadSel) (rest : List Stimulus) (i : Instr),
    s.stimuli = .word w rd :: rest → decodeWord w = .instr i →
      step s = exec i { s with
        stimuli := rest
        rd := rd
        obs := { s.obs with redraw := false, noted := [], reply := none } }

/-- R64: the reserved words are refused in a trace; the reserved values of the command port cause no step. -/
def Obligations.ReservedWordsTakeNoStep : Prop :=
  (∀ (s : State) (w : Byte) (rd : ReadSel) (rest : List Stimulus), s.stimuli = .word w rd :: rest →
    w.extractLsb' 2 3 ≠ 0 ∨
      w ∈ ([0x01, 0x02, 0x03, 0x40, 0x41, 0x61, 0x62, 0x63, 0x81, 0x82, 0x83, 0xA1, 0xA2, 0xA3, 0xC1, 0xC2, 0xC3,
        0xE3] : List Byte) →
      ∃ why, step s = .refused (.reservedWord w why)) ∧
  (∀ p : Pins, p.cmdOp = 0b001 ∨ p.cmdOp = 0b010 → commandOfPins p = none)

/-- The model's choice (log 5), on 70_reset_and_hazards.md section 6: with nothing left to do a step is a `NOP`. -/
def Obligations.StepWithNothingToDoIsNop : Prop :=
  ∀ s : State, s.stimuli = [] →
    step s = .next { s with obs := { s.obs with redraw := false, noted := [], reply := none } }

/-- 60_exceptions.md section 1 and 93_implementation_defined.md part 1: every operation completes in every state, no step
faults, and a step stops only at a reserved word. -/
def Obligations.EveryOperationCompletesAndNoStepFaults : Prop :=
  (∀ (i : Instr) (s : State), ∃ t, exec i s = .next t) ∧
  (∀ s : State, (∃ t, step s = .next t) ∨
    ∃ w rd rest why, s.stimuli = .word w rd :: rest ∧ decodeWord w = .reserved why ∧
      step s = .refused (.reservedWord w why))

/-! ### The Bus State Machine -/

/-- R81: the whole effect is the note of X2. -/
def Obligations.DataEdgeWithClockLowChangesNothing : Prop :=
  ∀ (s : State) (sda : Level), s.capturing = true →
    exec (.sdaEdge .low sda) s = .next { s with obs := { s.obs with noted := s.obs.noted ++ [.spuriousEdge] } }

/-- 40_bus_state_machine.md section 2, stop condition: `Idle`, a redraw, and nothing else; the partial byte stays. -/
def Obligations.StopConditionReturnsToIdle : Prop :=
  ∀ s : State, s.capturing = true → s.busState = .started →
    exec (.sdaEdge .high .high) s =
      .next { s with
        busState := .idle
        obs := { s.obs with redraw := true, redraws := s.obs.redraws + 1 } }

/-- R84: the first start condition primes and does not move `activeIndex`, which is 0, and the clocks that follow go to
frame 0, which is clear in a session that has just begun. -/
def Obligations.FirstStartConditionPrimes : Prop :=
  (∀ s : State, s.capturing = true → s.primed = false →
    exec (.sdaEdge .high .low) s = .next { s with busState := .started, primed := true }) ∧
  (∀ s : State, BlockInv s → s.primed = false → s.activeIndex = 0) ∧
  (∀ (s : State) (d : Level), s.capturing = false → 1 ≤ s.cfg.N →
    ∃ t, execAll [.cmdStart, .sdaEdge .high .low, .sclRise d] s = .next t ∧ t.activeIndex = 0 ∧
      t.byteAt 0 0 = bitOfLevel d ∧ t.bitIndexOf 0 = 1 ∧ t.byteIndexOf 0 = 0)

/-- R85: the next frame opens, already clear, and the store with the frame left behind is not written. -/
def Obligations.LaterStartConditionOpensTheNextFrame : Prop :=
  ∀ s : State, s.capturing = true → s.primed = true → s.activeIndex + 1 < s.cfg.M →
    exec (.sdaEdge .high .low) s =
      .next { s with busState := .started, activeIndex := s.activeIndex + 1 } ∧
    (BlockInv s → s.bitIndexOf (s.activeIndex + 1) = 0 ∧ s.byteIndexOf (s.activeIndex + 1) = 0 ∧
      ∀ k < s.cfg.N, s.byteAt (s.activeIndex + 1) k = 0 ∧ s.ackAt (s.activeIndex + 1) k = false)

/-- R86, under the spec's reading of D6: the whole next state of an overflowing start condition; what follows it is
ignored up to the next start condition, which primes. -/
def Obligations.OverflowingStartConditionClearsTheStore : Prop :=
  ∀ s : State, s.cfg.overflowEndsStarted = false → s.capturing = true → s.primed = true →
    s.cfg.M ≤ s.activeIndex + 1 →
    let t : State := { s with
      busState := .idle
      primed := false
      activeIndex := 0
      selectedIndex := 0
      store := FrameStore.empty
      obs := { s.obs with noted := s.obs.noted ++ [.capacityOverflow] } }
    exec (.sdaEdge .high .low) s = .next t ∧
      (∀ i k, t.byteAt i k = 0 ∧ t.ackAt i k = false ∧ t.bitIndexOf i = 0 ∧ t.byteIndexOf i = 0) ∧
      (∀ d, exec (.sclRise d) t = .next t) ∧ exec (.sdaEdge .high .high) t = .next t ∧
      exec (.sdaEdge .high .low) t = .next { t with busState := .started, primed := true }

/-- 92_eei_decisions.md D6, the alternative it records: the store is cleared all the same, and the step ends `Started`
and primed. -/
def Obligations.OverflowUnderTheAlternativeReadingEndsStarted : Prop :=
  ∀ s : State, s.cfg.overflowEndsStarted = true → s.capturing = true → s.primed = true →
    s.cfg.M ≤ s.activeIndex + 1 →
    exec (.sdaEdge .high .low) s = .next { s with
      busState := .started
      primed := true
      activeIndex := 0
      selectedIndex := 0
      store := FrameStore.empty
      obs := { s.obs with noted := s.obs.noted ++ [.capacityOverflow] } }

/-- R87. -/
def Obligations.DataHighWithClockHighInIdleChangesNothing : Prop :=
  ∀ s : State, s.capturing = true → s.busState = .idle → exec (.sdaEdge .high .high) s = .next s

/-- R88: a repeated start is any other start condition; the Bus State stays `Started`, or the store overflows, and the
frame left behind keeps its partial byte. -/
def Obligations.RepeatedStartIsAnyOtherStart : Prop :=
  ∀ s : State, BlockInv s → s.capturing = true → s.busState = .started →
    s.primed = true ∧
    (s.activeIndex + 1 < s.cfg.M →
      exec (.sdaEdge .high .low) s = .next { s with activeIndex := s.activeIndex + 1 }) ∧
    (s.cfg.M ≤ s.activeIndex + 1 → s.cfg.overflowEndsStarted = false →
      ∃ t, exec (.sdaEdge .high .low) s = .next t ∧ t.Cleared)

/-- R91: the decision table, every input combination, under the spec's reading of D6. -/
def Obligations.DecisionTableOfDataEdges : Prop :=
  ∀ (s : State) (scl sda : Level), s.capturing = true → s.cfg.overflowEndsStarted = false →
    ∃ t, exec (.sdaEdge scl sda) s = .next t ∧
      (t.busState, t.primed, t.activeIndex, t.obs.redraws) =
        (match scl, sda, s.busState, s.primed, decide (s.activeIndex + 1 ≥ s.cfg.M) with
        | .low, _, b, p, _ => (b, p, s.activeIndex, s.obs.redraws)
        | .high, .high, .started, p, _ => (.idle, p, s.activeIndex, s.obs.redraws + 1)
        | .high, .high, .idle, p, _ => (.idle, p, s.activeIndex, s.obs.redraws)
        | .high, .low, _, false, _ => (.started, true, s.activeIndex, s.obs.redraws)
        | .high, .low, _, true, false => (.started, true, s.activeIndex + 1, s.obs.redraws)
        | .high, .low, _, true, true => (.idle, false, 0, s.obs.redraws)) ∧
      t.store = (if scl = .high ∧ sda = .low ∧ s.primed = true ∧ s.activeIndex + 1 ≥ s.cfg.M
        then FrameStore.empty else s.store)

/-- 40_bus_state_machine.md section 1, the frame of `SDA_EDGE`: no byte, flag or cursor of any frame and no selection
moves, an overflow apart; parameters, session, front end, inputs and the last reply never do. -/
def Obligations.DataEdgeWritesNoFrame : Prop :=
  ∀ (s t : State) (scl sda : Level), exec (.sdaEdge scl sda) s = .next t →
    t.cfg = s.cfg ∧ t.capturing = s.capturing ∧ t.frontEnd = s.frontEnd ∧ t.rd = s.rd ∧ t.stimuli = s.stimuli ∧
      t.obs.reply = s.obs.reply ∧
    (¬(s.capturing = true ∧ scl = .high ∧ sda = .low ∧ s.primed = true ∧ s.cfg.M ≤ s.activeIndex + 1) →
      t.selectedIndex = s.selectedIndex ∧
      (∀ i k, t.byteAt i k = s.byteAt i k ∧ t.ackAt i k = s.ackAt i k) ∧
      (∀ i, t.bitIndexOf i = s.bitIndexOf i ∧ t.byteIndexOf i = s.byteIndexOf i))

/-- R89: a stop condition pulses redraw, and nothing else does. -/
def Obligations.OnlyStopConditionsRequestRedraw : Prop :=
  ∀ (i : Instr) (s t : State), exec i s = .next t →
    if i = .sdaEdge .high .high ∧ s.capturing = true ∧ s.busState = .started then
      t.obs.redraw = true ∧ t.obs.redraws = s.obs.redraws + 1
    else t.obs.redraw = s.obs.redraw ∧ t.obs.redraws = s.obs.redraws

/-! ### The Bit/Byte Assembler -/

/-- R101. -/
def Obligations.ClockInIdleChangesNothing : Prop :=
  ∀ (s : State) (d : Level), s.capturing = true → s.busState = .idle → exec (.sclRise d) s = .next s

/-- R102: the sampled level enters at bit 0, the bit cursor counts it, and no other byte, flag or cursor and nothing
outside the store changes; the bit shifted out was 0. -/
def Obligations.DataClockShiftsOneBitIn : Prop :=
  ∀ (s : State) (d : Level), s.capturing = true → s.busState = .started →
    s.byteIndexOf s.activeIndex < s.cfg.N → s.bitIndexOf s.activeIndex < 8 →
    let f := s.activeIndex
    let k := s.byteIndexOf f
    (∃ t, exec (.sclRise d) s = .next t ∧
      t.byteAt f k = (s.byteAt f k).extractLsb' 0 7 ++ (match d with | .high => 1#1 | .low => 0#1) ∧
      t.bitIndexOf f = s.bitIndexOf f + 1 ∧
      (∀ a, a ≠ s.elementKey f k → Memory.read 0 t.store.bytes a = Memory.read 0 s.store.bytes a) ∧
      (∀ j, j ≠ f → t.bitIndexOf j = s.bitIndexOf j) ∧
      t.store.acks = s.store.acks ∧ t.store.byteIndex = s.store.byteIndex ∧
      { t with store := s.store } = s) ∧
    (BlockInv s → (s.byteAt f k).getLsbD 7 = false)

/-- R103: the level of the ninth clock is the ack flag, low for acknowledged; `byteIndex` counts the byte and `bitIndex`
returns to 0; no byte, no other flag or cursor and nothing outside the store changes. -/
def Obligations.NinthClockRecordsTheAckFlag : Prop :=
  ∀ (s : State) (d : Level), s.capturing = true → s.busState = .started →
    s.byteIndexOf s.activeIndex < s.cfg.N → s.bitIndexOf s.activeIndex = 8 →
    let f := s.activeIndex
    let k := s.byteIndexOf f
    ∃ t, exec (.sclRise d) s = .next t ∧
      t.ackAt f k = decide (d = .low) ∧ t.byteIndexOf f = k + 1 ∧ t.bitIndexOf f = 0 ∧
      (∀ a, a ≠ s.elementKey f k → Memory.read false t.store.acks a = Memory.read false s.store.acks a) ∧
      (∀ j, j ≠ f → t.bitIndexOf j = s.bitIndexOf j ∧ t.byteIndexOf j = s.byteIndexOf j) ∧
      t.store.bytes = s.store.bytes ∧ { t with store := s.store } = s

/-- R104: a full frame takes nothing more and its bit cursor stays 0; the stop and the next start condition are still
recognised. -/
def Obligations.ClockOnAFullFrameChangesNothing : Prop :=
  ∀ (s : State) (d : Level), s.capturing = true → s.busState = .started →
    s.byteIndexOf s.activeIndex = s.cfg.N →
    let t : State := { s with obs := { s.obs with noted := s.obs.noted ++ [.frameFull] } }
    exec (.sclRise d) s = .next t ∧ (BlockInv s → t.bitIndexOf t.activeIndex = 0) ∧
      (∃ u, exec (.sdaEdge .high .high) t = .next u ∧ u.busState = .idle) ∧
      (s.primed = true → s.activeIndex + 1 < s.cfg.M →
        ∃ u, exec (.sdaEdge .high .low) t = .next u ∧ u.activeIndex = s.activeIndex + 1)

/-- R105: nine clocks from `bitIndex = 0` record one byte, first bit in bit 7, and its ack flag. -/
def Obligations.NineClocksRecordOneByte : Prop :=
  ∀ (s : State) (b7 b6 b5 b4 b3 b2 b1 b0 a : Level), s.capturing = true → s.busState = .started →
    s.byteIndexOf s.activeIndex < s.cfg.N → s.bitIndexOf s.activeIndex = 0 →
    let f := s.activeIndex
    let k := s.byteIndexOf f
    ∃ t, execAll [.sclRise b7, .sclRise b6, .sclRise b5, .sclRise b4, .sclRise b3, .sclRise b2, .sclRise b1,
        .sclRise b0, .sclRise a] s = .next t ∧
      (∀ n, (t.byteAt f k).getLsbD n = ([b0, b1, b2, b3, b4, b5, b6, b7][n]? == some .high)) ∧
      t.ackAt f k = decide (a = .low) ∧ t.byteIndexOf f = k + 1 ∧ t.bitIndexOf f = 0 ∧
      (∀ x, x ≠ s.elementKey f k → Memory.read 0 t.store.bytes x = Memory.read 0 s.store.bytes x ∧
        Memory.read false t.store.acks x = Memory.read false s.store.acks x) ∧
      { t with store := s.store } = s

/-- R107: a stop or a repeated start keeps the partial byte, its bits in the low `b` bits, its bit cursor, and its ack
flag 0, and does not count it. -/
def Obligations.PartialByteIsKeptAtStopAndRepeatedStart : Prop :=
  ∀ s : State, BlockInv s → s.capturing = true → s.busState = .started →
    1 ≤ s.bitIndexOf s.activeIndex →
    let f := s.activeIndex
    let k := s.byteIndexOf f
    let kept := fun t : State => SameFrame s t f ∧ ¬t.Captured f k ∧ t.ackAt f k = false ∧
      (t.byteAt f k).toNat < 2 ^ t.bitIndexOf f ∧ t.bitIndexOf f ≤ 8
    (∃ t, exec (.sdaEdge .high .high) s = .next t ∧ kept t) ∧
    (s.activeIndex + 1 < s.cfg.M → ∃ t, exec (.sdaEdge .high .low) s = .next t ∧ kept t)

/-- R109: the outcome table, with the writes of each row. -/
def Obligations.OutcomeTableOfClockEdges : Prop :=
  ∀ (s : State) (d : Level), BlockInv s → s.capturing = true →
    let f := s.activeIndex
    let k := s.byteIndexOf f
    ∃ t, exec (.sclRise d) s = .next t ∧
      (if s.busState = .idle ∨ k = s.cfg.N then t.store = s.store
      else if s.bitIndexOf f < 8 then
        (t.bitIndexOf f, t.byteIndexOf f, t.byteAt f k, t.ackAt f k) =
          (s.bitIndexOf f + 1, k, shiftIn (s.byteAt f k) d, s.ackAt f k)
      else
        (t.bitIndexOf f, t.byteIndexOf f, t.byteAt f k, t.ackAt f k) = (0, k + 1, s.byteAt f k, ackOfLevel d)) ∧
      (∀ x, x ≠ s.elementKey f k → Memory.read 0 t.store.bytes x = Memory.read 0 s.store.bytes x ∧
        Memory.read false t.store.acks x = Memory.read false s.store.acks x) ∧
      (∀ j, j ≠ f → t.bitIndexOf j = s.bitIndexOf j ∧ t.byteIndexOf j = s.byteIndexOf j) ∧
      { t with store := s.store, obs := s.obs } = s

/-- 41_bit_byte_assembler.md section 1, the frame of `SCL_RISE`: the element and the cursors of the active frame may
change and nothing else of the block, in any state. -/
def Obligations.ClockEdgeWritesOnlyTheActiveElement : Prop :=
  ∀ (s t : State) (d : Level), exec (.sclRise d) s = .next t →
    { t with store := s.store, obs := s.obs } = s ∧ t.obs.redraw = s.obs.redraw ∧
      t.obs.redraws = s.obs.redraws ∧ t.obs.reply = s.obs.reply ∧
    (∀ a, a ≠ s.elementKey s.activeIndex (s.byteIndexOf s.activeIndex) →
      Memory.read 0 t.store.bytes a = Memory.read 0 s.store.bytes a ∧
      Memory.read false t.store.acks a = Memory.read false s.store.acks a) ∧
    (∀ j, j ≠ s.activeIndex → t.bitIndexOf j = s.bitIndexOf j ∧ t.byteIndexOf j = s.byteIndexOf j)

/-! ### The session -/

/-- R143: while `Stopped` no bus event steps, at either level; the front end keeps following the lines. -/
def Obligations.BusEventsAreGatedWhileStopped : Prop :=
  ∀ s : State, s.capturing = false →
    (∀ scl sda, exec (.sdaEdge scl sda) s = .next s) ∧ (∀ d, exec (.sclRise d) s = .next s) ∧
    (∀ p : Pins, p.rstN = .high → p.cmdValid = false →
      sampleCycle p s = .next { s with frontEnd :=
        { sclP := s.frontEnd.sclS, sclS := s.frontEnd.sclM, sclM := p.sclI
          sdaP := s.frontEnd.sdaS, sdaS := s.frontEnd.sdaM, sdaM := p.sdaI } })

/-- R141: both branches of the pseudocode. -/
def Obligations.StartCommandClearsThenCaptures : Prop :=
  ∀ s : State,
    (s.capturing = false → exec .cmdStart s = .next { s with
      capturing := true
      busState := .idle
      primed := false
      activeIndex := 0
      selectedIndex := 0
      store := FrameStore.empty }) ∧
    (s.capturing = true → exec .cmdStart s =
      .next { s with obs := { s.obs with noted := s.obs.noted ++ [.doubleStart] } })

/-- R142 and R150. -/
def Obligations.StopCommandOnlyEndsCapturing : Prop :=
  ∀ s : State,
    (s.capturing = true → exec .cmdStop s = .next { s with capturing := false }) ∧
    (s.capturing = false → exec .cmdStop s = .next s)

/-- R140: the session changes by `CMD_START` from `Stopped` and by `CMD_STOP` from `Capturing` and by nothing else;
capturing begins in `Idle`; reset is `Stopped`. -/
def Obligations.SessionHasTwoTransitions : Prop :=
  State.reset.capturing = false ∧
  ∀ (i : Instr) (s t : State), exec i s = .next t →
    t.capturing = (match i with
      | .cmdStart => true
      | .cmdStop => false
      | _ => s.capturing) ∧
    (s.capturing = false → t.capturing = true → t.busState = .idle)

/-- R146: after `CMD_STOP`, and whatever is done but `CMD_START`, the capture stands; the next `CMD_START` clears it. -/
def Obligations.CaptureStandsUntilTheNextStart : Prop :=
  ∀ (s : State) (is : List Instr), Instr.cmdStart ∉ is →
    ∃ t, execAll (.cmdStop :: is) s = .next t ∧ t.store = s.store ∧ t.activeIndex = s.activeIndex ∧
      t.busState = s.busState ∧ t.primed = s.primed ∧ t.capturing = false ∧
      ((∀ i ∈ is, i ≠ .cmdSelNext ∧ i ≠ .cmdSelPrev) → t.selectedIndex = s.selectedIndex) ∧
      ∃ u, exec .cmdStart t = .next u ∧ u.Cleared ∧ u.capturing = true

/-! ### Queries, selection, no-operation -/

/-- R125. -/
def Obligations.SelectNextIsClampedAtTheActiveFrame : Prop :=
  ∀ s : State, exec .cmdSelNext s = .next { s with selectedIndex := min (s.selectedIndex + 1) s.activeIndex }

/-- R126. -/
def Obligations.SelectPrevIsClampedAtZero : Prop :=
  ∀ s : State, exec .cmdSelPrev s =
    .next { s with selectedIndex := if s.selectedIndex > 0 then s.selectedIndex - 1 else 0 }

/-- R127: a selection command moves the selection alone; a bus event moves it only by a capacity overflow, to 0. -/
def Obligations.SelectionAndDecoderAreIndependent : Prop :=
  ∀ (i : Instr) (s t : State), exec i s = .next t →
    (i = .cmdSelNext ∨ i = .cmdSelPrev → { t with selectedIndex := s.selectedIndex } = s) ∧
    ((∃ scl sda, i = .sdaEdge scl sda) ∨ (∃ d, i = .sclRise d) →
      t.selectedIndex = s.selectedIndex ∨
        (t.selectedIndex = 0 ∧ t.activeIndex = 0 ∧ t.obs.noted = s.obs.noted ++ [.capacityOverflow])) ∧
    (s.selectedIndex ≤ s.activeIndex → t.selectedIndex ≤ t.activeIndex)

/-- R123: the count is `activeIndex + 1` in both session states, 1 to `M`, and 1 after either reset. -/
def Obligations.FrameCountIsActiveIndexPlusOne : Prop :=
  ∀ s : State,
    exec .getFrameCount s = .next { s with obs := { s.obs with reply := some (.frameCount (s.activeIndex + 1)) } } ∧
    (∀ rd, (s.ports rd).frameCount = s.activeIndex + 1) ∧
    (BlockInv s → 1 ≤ s.frameCount ∧ s.frameCount ≤ s.cfg.M) ∧
    s.fsReset.frameCount = 1 ∧ State.reset.frameCount = 1 ∧ (s.cfg.M ≤ s.activeIndex + 1 → s.capturing = true →
      s.primed = true → ∃ t, exec (.sdaEdge .high .low) s = .next t ∧ t.frameCount = 1 ∧ t.byteIndexOf 0 = 0)

/-- R124: the Bus State is answered in both session states and no state is written. -/
def Obligations.BusStateQueryAnswersTheBusState : Prop :=
  ∀ s : State,
    exec .getBusState s = .next { s with obs := { s.obs with reply := some (.busState s.busState) } } ∧
    (∀ rd, (s.ports rd).busState = s.busState)

/-- R122: in range, the record of the frame and the element at the read-port inputs; out of range, zero on every output;
no state written. That `rd_byte_index` is zero for a position out of range is R122's reading (log 9). -/
def Obligations.FrameQueryAnswersTheSelectedElement : Prop :=
  ∀ s : State, ∃ (e : ReadData) (r : Snapshot),
    exec .getFrame s = .next { s with obs := { s.obs with reply := some (.frame e r) } } ∧
    (s.ports s.rd).read = e ∧
    (s.rd.frame < s.cfg.M → s.rd.pos < s.cfg.N →
      e.rdByte = s.byteAt s.rd.frame s.rd.pos ∧ e.rdAck = s.ackAt s.rd.frame s.rd.pos ∧
      e.rdByteIndex = s.byteIndexOf s.rd.frame) ∧
    (s.cfg.M ≤ s.rd.frame ∨ s.cfg.N ≤ s.rd.pos → e.rdByte = 0 ∧ e.rdAck = false ∧ e.rdByteIndex = 0) ∧
    r.bytes.length = s.cfg.N ∧ r.ack.length = s.cfg.N ∧
    (s.rd.frame < s.cfg.M → r.byteIndex = s.byteIndexOf s.rd.frame ∧
      ∀ k < s.cfg.N, r.bytes[k]? = some (s.byteAt s.rd.frame k) ∧ r.ack[k]? = some (s.ackAt s.rd.frame k)) ∧
    (s.cfg.M ≤ s.rd.frame → r.byteIndex = 0 ∧
      ∀ k < s.cfg.N, r.bytes[k]? = some 0 ∧ r.ack[k]? = some false)

/-- 20_memory.md section 4: a read has no side effect, and a second one with no step between shows the same. -/
def Obligations.QueriesHaveNoSideEffect : Prop :=
  ∀ (i : Instr) (s t : State), i = .getFrameCount ∨ i = .getBusState ∨ i = .getFrame → exec i s = .next t →
    { t with obs := { t.obs with reply := s.obs.reply } } = s ∧ exec i t = .next t

/-- R130: `NOP`, and a sample cycle with no event and no command, change no state of the block. -/
def Obligations.NopChangesNothing : Prop :=
  (∀ s : State, exec .nop s = .next s) ∧
  (∀ (s : State) (p : Pins), p.rstN = .high → p.cmdValid = false ∨ p.cmdOp = 0b000 →
    s.frontEnd.sdaP = s.frontEnd.sdaS → ¬(s.frontEnd.sclP = .low ∧ s.frontEnd.sclS = .high) →
    ∃ t, sampleCycle p s = .next t ∧ { t with frontEnd := s.frontEnd } = s)

/-- 60_exceptions.md section 1, the table of X1 to X4: each is noted by its operation exactly under its condition. That
X4 is noted for `N <= byteIndex`, where the table and R100 write `byteIndex = N`, is the model's choice (log 8); under
R20 (2) the two are the same. -/
def Obligations.ConditionsAreNotedExactlyWhenTheyHold : Prop :=
  ∀ (i : Instr) (s t : State), exec i s = .next t →
    t.obs.noted = s.obs.noted ++ (match i with
      | .sdaEdge .low _ => if s.capturing = true then [.spuriousEdge] else []
      | .sdaEdge .high .low =>
        if s.capturing = true ∧ s.primed = true ∧ s.cfg.M ≤ s.activeIndex + 1 then [.capacityOverflow] else []
      | .cmdStart => if s.capturing = true then [.doubleStart] else []
      | .sclRise _ =>
        if s.capturing = true ∧ s.busState = .started ∧ s.cfg.N ≤ s.byteIndexOf s.activeIndex then [.frameFull]
        else []
      | _ => [])

/-- 10_state.md section 4, `activeIndex`: it moves on by one at a start condition, or to 0 by `FS_RESET()`, and nothing
else writes it. -/
def Obligations.ActiveIndexAdvancesByOneOrReturnsToZero : Prop :=
  ∀ (i : Instr) (s t : State), exec i s = .next t → t.activeIndex ≠ s.activeIndex →
    (i = .sdaEdge .high .low ∧ s.capturing = true ∧ s.primed = true ∧
      ((s.activeIndex + 1 < s.cfg.M ∧ t.activeIndex = s.activeIndex + 1) ∨
        (s.cfg.M ≤ s.activeIndex + 1 ∧ t.activeIndex = 0 ∧ t.store = FrameStore.empty))) ∨
    (i = .cmdStart ∧ s.capturing = false ∧ t.activeIndex = 0 ∧ t.store = FrameStore.empty)

/-! ### Reset and the front end -/

/-- R24: both columns of the table. -/
def Obligations.ResetValuesAreThoseOfTheTable : Prop :=
  (∀ s : State, s.fsReset.capturing = s.capturing ∧ s.fsReset.frontEnd = s.frontEnd ∧ s.fsReset.obs = s.obs ∧
    s.fsReset.Cleared ∧ ∀ i k, s.fsReset.byteAt i k = 0 ∧ s.fsReset.ackAt i k = false ∧
      s.fsReset.bitIndexOf i = 0 ∧ s.fsReset.byteIndexOf i = 0) ∧
  (∀ s : State, s = State.reset ∨ (∃ u : State, s = u.hardReset) →
    s.capturing = false ∧ s.Cleared ∧ s.obs.redraw = false ∧
    s.frontEnd = { sclM := .high, sclS := .high, sclP := .high, sdaM := .high, sdaS := .high, sdaP := .high } ∧
    ∀ i k, s.byteAt i k = 0 ∧ s.ackAt i k = false ∧ s.bitIndexOf i = 0 ∧ s.byteIndexOf i = 0)

/-- 70_reset_and_hazards.md section 1: a cycle with `rst_n = 0` leaves the block in the reset state whatever the pins
say; that parameters, inputs and the count of pulses stand is the model's choice (log 14). -/
def Obligations.ResetPinHoldsTheBlockInReset : Prop :=
  ∀ (s : State) (p : Pins) (rest : List Stimulus), s.stimuli = .cycle p :: rest → p.rstN = .low →
    step s = .next { State.resetOf s.cfg with
      rd := p.rd
      stimuli := rest
      obs := { redraw := false, redraws := s.obs.redraws, noted := [], reply := none } }

/-- R168: the operations of one cycle in their fixed order, each seeing what the earlier left, the bus events gated by
`capturing` as it stood at the start of the cycle. -/
def Obligations.OperationsOfOneCycleStepInOrder : Prop :=
  ∀ (s : State) (p : Pins), p.rstN = .high →
    ∃ s1 s2 s3 : State,
      (if s.capturing = true ∧ s.frontEnd.sclP = .low ∧ s.frontEnd.sclS = .high
        then exec (.sclRise s.frontEnd.sdaS) s = .next s1 else s1 = s) ∧
      (if s.capturing = true ∧ s.frontEnd.sdaP ≠ s.frontEnd.sdaS
        then exec (.sdaEdge s.frontEnd.sclS s.frontEnd.sdaS) s1 = .next s2 else s2 = s1) ∧
      (if p.cmdValid = true ∧ p.cmdOp = 0b011 then exec .cmdStart s2 = .next s3
        else if p.cmdValid = true ∧ p.cmdOp = 0b100 then exec .cmdStop s2 = .next s3
        else if p.cmdValid = true ∧ p.cmdOp = 0b101 then exec .cmdSelNext s2 = .next s3
        else if p.cmdValid = true ∧ p.cmdOp = 0b110 then exec .cmdSelPrev s2 = .next s3
        else s3 = s2) ∧
      sampleCycle p s = .next { s3 with frontEnd :=
        { sclP := s.frontEnd.sclS, sclS := s.frontEnd.sclM, sclM := p.sclI
          sdaP := s.frontEnd.sdaS, sdaS := s.frontEnd.sdaM, sdaM := p.sdaI } }

/-- 70_reset_and_hazards.md section 3: after two cycles the comparison sees the pins of the first of them against what
was sampled before it, so a transition is an event two cycles after the cycle that sampled it. -/
def Obligations.FrontEndSeesThePinsTwoCyclesLater : Prop :=
  ∀ (s t : State) (p q : Pins) (rest : List Stimulus), p.rstN = .high → q.rstN = .high →
    s.stimuli = .cycle p :: .cycle q :: rest → RunsTo 2 s t →
    t.frontEnd = { sclM := q.sclI, sclS := p.sclI, sclP := s.frontEnd.sclM
                   sdaM := q.sdaI, sdaS := p.sdaI, sdaP := s.frontEnd.sdaM } ∧
    t.sdaEdgeEvent = (if t.capturing = true ∧ s.frontEnd.sdaM ≠ p.sdaI then some (.sdaEdge p.sclI p.sdaI) else none) ∧
    t.sclRiseEvent = (if t.capturing = true ∧ s.frontEnd.sclM = .low ∧ p.sclI = .high
      then some (.sclRise p.sdaI) else none)

/-! ### Invariants and whole-machine rules -/

/-- 10_state.md section 5 with the canonical form and the key range of the store (log 13): the reset state meets the
invariants, for every well-formed choice of the parameters. -/
def Obligations.ResetMeetsTheInvariants : Prop :=
  BlockInv State.reset ∧ ∀ c : Config, c.wellFormed = true → BlockInv (State.resetOf c)

/-- 10_state.md section 5 with the canonical form and the key range of the store (log 13): every step from a
state that meets the invariants leads to one that meets them, whatever the stimulus and the reading of D6. -/
def Obligations.EveryStepKeepsTheInvariants : Prop :=
  ∀ s t : State, BlockInv s → step s = .next t → BlockInv t ∧ t.cfg = s.cfg

/-- 10_state.md section 5, with the canonical form and the key range of the store, which are the model's choice
(log 13) and which `BlockInv` carries beside R20: in every state reachable from hardware reset, for all parameters and
all stimuli, items 1 to 9 hold; after every ack clock `bitIndex < 8`; a frame below `activeIndex` is not written until
the next `FS_RESET()`. -/
def Obligations.ReachableStatesMeetTheInvariants : Prop :=
  ∀ (c : Config) (q : List Stimulus) (n : Nat) (s : State), c.wellFormed = true →
    RunsTo n { State.resetOf c with stimuli := q } s →
    BlockInv s ∧
    (∀ (d : Level) (t : State), exec (.sclRise d) s = .next t → 8 ≤ s.bitIndexOf s.activeIndex →
      s.capturing = true → s.busState = .started → t.bitIndexOf t.activeIndex < 8) ∧
    (∀ t, step s = .next t → (∀ i < s.activeIndex, SameFrame s t i) ∨
      (t.store = FrameStore.empty ∧ t.activeIndex = 0))

/-- 42_frame_store.md section 3, over runs: leaving out every query and selection command, and starting with another
selection, other read-port inputs and another last reply, changes nothing of what is decoded. -/
def Obligations.ReadOutNeverDisturbsDecoding : Prop :=
  ∀ (is : List Instr) (s s' : State), s.decoderPart = s'.decoderPart →
    ∃ t t', execAll is s = .next t ∧ execAll (is.filter fun i => !isReadOut i) s' = .next t' ∧
      t.decoderPart = t'.decoderPart

/-- 40_bus_state_machine.md section 2, overflow, the source's own check, for every `M` and both readings of D6: from a
session that has just begun, `k + 1 <= M` start conditions make frame `k` active, and `M + 1` of them, each followed by
a stop condition or not, bring the count back to 1. No clock is given, so the store is empty all along: that an overflow
clears a store with content is `OverflowingStartConditionClearsTheStore` and its alternative. -/
def Obligations.OneStartConditionMoreThanFramesReturnsToCountOne : Prop :=
  ∀ (s : State) (stops : Bool), s.capturing = true → s.Cleared → 1 ≤ s.cfg.M →
    let block := if stops then [busStart, busStop] else [busStart]
    (∀ k < s.cfg.M, ∃ t, execAll (List.replicate (k + 1) block).flatten s = .next t ∧ t.activeIndex = k ∧
      t.frameCount = k + 1) ∧
    ∃ t, execAll (List.replicate (s.cfg.M + 1) block).flatten s = .next t ∧ t.frameCount = 1 ∧
      t.store = FrameStore.empty

/-- 70_reset_and_hazards.md section 3 against 30_encoding.md section 2: a sample cycle out of reset does to the block
what the words of its events and its command do as a trace, one step each, in the order of R168. -/
def Obligations.SampleCycleRefinesTheTraceOfItsOperations : Prop :=
  ∀ (s : State) (p : Pins), p.rstN = .high →
    let ops := s.cycleOps p
    ∃ t u, step { s with stimuli := [.cycle p] } = .next t ∧
      RunsTo ops.length { s with stimuli := ops.map fun i => .word (encode i) p.rd } u ∧
      t.cfg = u.cfg ∧ t.capturing = u.capturing ∧ t.busState = u.busState ∧ t.primed = u.primed ∧
      t.activeIndex = u.activeIndex ∧ t.selectedIndex = u.selectedIndex ∧ t.store = u.store ∧
      t.obs.redraws = u.obs.redraws

/-- 20_memory.md section 1 with log 13: two canonical byte memories that read alike at every key are equal, so that equal
stores are equal data. -/
def Obligations.CanonicalMemoriesThatReadAlikeAreEqual : Prop :=
  ∀ m m' : List Host.Cell, Memory.wf 0 m → Memory.wf 0 m' →
    (∀ a, Memory.read 0 m a = Memory.read 0 m' a) → m = m'
end

