-- ==== Sys2Proof/Laws/State.lean ====
section
/-! SUPPORT. What each shared update leaves in each field of the state, one lemma a field, true by definition. -/

namespace Sys2Proof.Machine

variable (s : State)

@[simp] theorem State.note_cfg (x : Condition) : (s.note x).cfg = s.cfg := rfl
@[simp] theorem State.note_capturing (x : Condition) : (s.note x).capturing = s.capturing := rfl
@[simp] theorem State.note_busState (x : Condition) : (s.note x).busState = s.busState := rfl
@[simp] theorem State.note_primed (x : Condition) : (s.note x).primed = s.primed := rfl
@[simp] theorem State.note_activeIndex (x : Condition) : (s.note x).activeIndex = s.activeIndex := rfl
@[simp] theorem State.note_selectedIndex (x : Condition) : (s.note x).selectedIndex = s.selectedIndex := rfl
@[simp] theorem State.note_store (x : Condition) : (s.note x).store = s.store := rfl
@[simp] theorem State.note_frontEnd (x : Condition) : (s.note x).frontEnd = s.frontEnd := rfl
@[simp] theorem State.note_rd (x : Condition) : (s.note x).rd = s.rd := rfl
@[simp] theorem State.note_stimuli (x : Condition) : (s.note x).stimuli = s.stimuli := rfl
@[simp] theorem State.note_obs (x : Condition) : (s.note x).obs = { s.obs with noted := s.obs.noted ++ [x] } := rfl
@[simp] theorem State.note_byteAt (x : Condition) (i k : Nat) : (s.note x).byteAt i k = s.byteAt i k := rfl
@[simp] theorem State.note_ackAt (x : Condition) (i k : Nat) : (s.note x).ackAt i k = s.ackAt i k := rfl
@[simp] theorem State.note_bitIndexOf (x : Condition) (i : Nat) : (s.note x).bitIndexOf i = s.bitIndexOf i := rfl
@[simp] theorem State.note_byteIndexOf (x : Condition) (i : Nat) : (s.note x).byteIndexOf i = s.byteIndexOf i := rfl
@[simp] theorem State.note_elementKey (x : Condition) (i k : Nat) : (s.note x).elementKey i k = s.elementKey i k := rfl

@[simp] theorem State.pulseRedraw_cfg : (s.pulseRedraw).cfg = s.cfg := rfl
@[simp] theorem State.pulseRedraw_capturing : (s.pulseRedraw).capturing = s.capturing := rfl
@[simp] theorem State.pulseRedraw_busState : (s.pulseRedraw).busState = s.busState := rfl
@[simp] theorem State.pulseRedraw_primed : (s.pulseRedraw).primed = s.primed := rfl
@[simp] theorem State.pulseRedraw_activeIndex : (s.pulseRedraw).activeIndex = s.activeIndex := rfl
@[simp] theorem State.pulseRedraw_selectedIndex : (s.pulseRedraw).selectedIndex = s.selectedIndex := rfl
@[simp] theorem State.pulseRedraw_store : (s.pulseRedraw).store = s.store := rfl
@[simp] theorem State.pulseRedraw_frontEnd : (s.pulseRedraw).frontEnd = s.frontEnd := rfl
@[simp] theorem State.pulseRedraw_rd : (s.pulseRedraw).rd = s.rd := rfl
@[simp] theorem State.pulseRedraw_stimuli : (s.pulseRedraw).stimuli = s.stimuli := rfl
@[simp] theorem State.pulseRedraw_obs : (s.pulseRedraw).obs = { s.obs with redraw := true, redraws := s.obs.redraws + 1 } := rfl
@[simp] theorem State.pulseRedraw_byteAt (i k : Nat) : (s.pulseRedraw).byteAt i k = s.byteAt i k := rfl
@[simp] theorem State.pulseRedraw_ackAt (i k : Nat) : (s.pulseRedraw).ackAt i k = s.ackAt i k := rfl
@[simp] theorem State.pulseRedraw_bitIndexOf (i : Nat) : (s.pulseRedraw).bitIndexOf i = s.bitIndexOf i := rfl
@[simp] theorem State.pulseRedraw_byteIndexOf (i : Nat) : (s.pulseRedraw).byteIndexOf i = s.byteIndexOf i := rfl
@[simp] theorem State.pulseRedraw_elementKey (i k : Nat) : (s.pulseRedraw).elementKey i k = s.elementKey i k := rfl

@[simp] theorem State.answer_cfg (r : Reply) : (s.answer r).cfg = s.cfg := rfl
@[simp] theorem State.answer_capturing (r : Reply) : (s.answer r).capturing = s.capturing := rfl
@[simp] theorem State.answer_busState (r : Reply) : (s.answer r).busState = s.busState := rfl
@[simp] theorem State.answer_primed (r : Reply) : (s.answer r).primed = s.primed := rfl
@[simp] theorem State.answer_activeIndex (r : Reply) : (s.answer r).activeIndex = s.activeIndex := rfl
@[simp] theorem State.answer_selectedIndex (r : Reply) : (s.answer r).selectedIndex = s.selectedIndex := rfl
@[simp] theorem State.answer_store (r : Reply) : (s.answer r).store = s.store := rfl
@[simp] theorem State.answer_frontEnd (r : Reply) : (s.answer r).frontEnd = s.frontEnd := rfl
@[simp] theorem State.answer_rd (r : Reply) : (s.answer r).rd = s.rd := rfl
@[simp] theorem State.answer_stimuli (r : Reply) : (s.answer r).stimuli = s.stimuli := rfl
@[simp] theorem State.answer_obs (r : Reply) : (s.answer r).obs = { s.obs with reply := some r } := rfl
@[simp] theorem State.answer_byteAt (r : Reply) (i k : Nat) : (s.answer r).byteAt i k = s.byteAt i k := rfl
@[simp] theorem State.answer_ackAt (r : Reply) (i k : Nat) : (s.answer r).ackAt i k = s.ackAt i k := rfl
@[simp] theorem State.answer_bitIndexOf (r : Reply) (i : Nat) : (s.answer r).bitIndexOf i = s.bitIndexOf i := rfl
@[simp] theorem State.answer_byteIndexOf (r : Reply) (i : Nat) : (s.answer r).byteIndexOf i = s.byteIndexOf i := rfl
@[simp] theorem State.answer_elementKey (r : Reply) (i k : Nat) : (s.answer r).elementKey i k = s.elementKey i k := rfl

@[simp] theorem State.beginStep_cfg (p : ReadSel) (q : List Stimulus) : (s.beginStep p q).cfg = s.cfg := rfl
@[simp] theorem State.beginStep_capturing (p : ReadSel) (q : List Stimulus) : (s.beginStep p q).capturing = s.capturing := rfl
@[simp] theorem State.beginStep_busState (p : ReadSel) (q : List Stimulus) : (s.beginStep p q).busState = s.busState := rfl
@[simp] theorem State.beginStep_primed (p : ReadSel) (q : List Stimulus) : (s.beginStep p q).primed = s.primed := rfl
@[simp] theorem State.beginStep_activeIndex (p : ReadSel) (q : List Stimulus) : (s.beginStep p q).activeIndex = s.activeIndex := rfl
@[simp] theorem State.beginStep_selectedIndex (p : ReadSel) (q : List Stimulus) : (s.beginStep p q).selectedIndex = s.selectedIndex := rfl
@[simp] theorem State.beginStep_store (p : ReadSel) (q : List Stimulus) : (s.beginStep p q).store = s.store := rfl
@[simp] theorem State.beginStep_frontEnd (p : ReadSel) (q : List Stimulus) : (s.beginStep p q).frontEnd = s.frontEnd := rfl
@[simp] theorem State.beginStep_rd (p : ReadSel) (q : List Stimulus) : (s.beginStep p q).rd = p := rfl
@[simp] theorem State.beginStep_stimuli (p : ReadSel) (q : List Stimulus) : (s.beginStep p q).stimuli = q := rfl
@[simp] theorem State.beginStep_obs (p : ReadSel) (q : List Stimulus) : (s.beginStep p q).obs = { s.obs with redraw := false, noted := [], reply := none } := rfl
@[simp] theorem State.beginStep_byteAt (p : ReadSel) (q : List Stimulus) (i k : Nat) : (s.beginStep p q).byteAt i k = s.byteAt i k := rfl
@[simp] theorem State.beginStep_ackAt (p : ReadSel) (q : List Stimulus) (i k : Nat) : (s.beginStep p q).ackAt i k = s.ackAt i k := rfl
@[simp] theorem State.beginStep_bitIndexOf (p : ReadSel) (q : List Stimulus) (i : Nat) : (s.beginStep p q).bitIndexOf i = s.bitIndexOf i := rfl
@[simp] theorem State.beginStep_byteIndexOf (p : ReadSel) (q : List Stimulus) (i : Nat) : (s.beginStep p q).byteIndexOf i = s.byteIndexOf i := rfl
@[simp] theorem State.beginStep_elementKey (p : ReadSel) (q : List Stimulus) (i k : Nat) : (s.beginStep p q).elementKey i k = s.elementKey i k := rfl

@[simp] theorem State.fsReset_cfg : (s.fsReset).cfg = s.cfg := rfl
@[simp] theorem State.fsReset_capturing : (s.fsReset).capturing = s.capturing := rfl
@[simp] theorem State.fsReset_busState : (s.fsReset).busState = .idle := rfl
@[simp] theorem State.fsReset_primed : (s.fsReset).primed = false := rfl
@[simp] theorem State.fsReset_activeIndex : (s.fsReset).activeIndex = 0 := rfl
@[simp] theorem State.fsReset_selectedIndex : (s.fsReset).selectedIndex = 0 := rfl
@[simp] theorem State.fsReset_store : (s.fsReset).store = FrameStore.empty := rfl
@[simp] theorem State.fsReset_frontEnd : (s.fsReset).frontEnd = s.frontEnd := rfl
@[simp] theorem State.fsReset_rd : (s.fsReset).rd = s.rd := rfl
@[simp] theorem State.fsReset_stimuli : (s.fsReset).stimuli = s.stimuli := rfl
@[simp] theorem State.fsReset_obs : (s.fsReset).obs = s.obs := rfl
@[simp] theorem State.fsReset_elementKey (i k : Nat) : (s.fsReset).elementKey i k = s.elementKey i k := rfl

@[simp] theorem State.hardReset_cfg : (s.hardReset).cfg = s.cfg := rfl
@[simp] theorem State.hardReset_capturing : (s.hardReset).capturing = false := rfl
@[simp] theorem State.hardReset_busState : (s.hardReset).busState = .idle := rfl
@[simp] theorem State.hardReset_primed : (s.hardReset).primed = false := rfl
@[simp] theorem State.hardReset_activeIndex : (s.hardReset).activeIndex = 0 := rfl
@[simp] theorem State.hardReset_selectedIndex : (s.hardReset).selectedIndex = 0 := rfl
@[simp] theorem State.hardReset_store : (s.hardReset).store = FrameStore.empty := rfl
@[simp] theorem State.hardReset_frontEnd : (s.hardReset).frontEnd = FrontEnd.idleBus := rfl
@[simp] theorem State.hardReset_rd : (s.hardReset).rd = s.rd := rfl
@[simp] theorem State.hardReset_stimuli : (s.hardReset).stimuli = s.stimuli := rfl
@[simp] theorem State.hardReset_obs : (s.hardReset).obs = { s.obs with redraw := false } := rfl
@[simp] theorem State.hardReset_elementKey (i k : Nat) : (s.hardReset).elementKey i k = s.elementKey i k := rfl

@[simp] theorem State.setByte_cfg (a b : Nat) (v : Byte) : (s.setByte a b v).cfg = s.cfg := rfl
@[simp] theorem State.setByte_capturing (a b : Nat) (v : Byte) : (s.setByte a b v).capturing = s.capturing := rfl
@[simp] theorem State.setByte_busState (a b : Nat) (v : Byte) : (s.setByte a b v).busState = s.busState := rfl
@[simp] theorem State.setByte_primed (a b : Nat) (v : Byte) : (s.setByte a b v).primed = s.primed := rfl
@[simp] theorem State.setByte_activeIndex (a b : Nat) (v : Byte) : (s.setByte a b v).activeIndex = s.activeIndex := rfl
@[simp] theorem State.setByte_selectedIndex (a b : Nat) (v : Byte) : (s.setByte a b v).selectedIndex = s.selectedIndex := rfl
@[simp] theorem State.setByte_store (a b : Nat) (v : Byte) : (s.setByte a b v).store = { s.store with bytes := Memory.write 0 s.store.bytes (s.elementKey a b) v } := rfl
@[simp] theorem State.setByte_frontEnd (a b : Nat) (v : Byte) : (s.setByte a b v).frontEnd = s.frontEnd := rfl
@[simp] theorem State.setByte_rd (a b : Nat) (v : Byte) : (s.setByte a b v).rd = s.rd := rfl
@[simp] theorem State.setByte_stimuli (a b : Nat) (v : Byte) : (s.setByte a b v).stimuli = s.stimuli := rfl
@[simp] theorem State.setByte_obs (a b : Nat) (v : Byte) : (s.setByte a b v).obs = s.obs := rfl
@[simp] theorem State.setByte_elementKey (a b : Nat) (v : Byte) (i k : Nat) : (s.setByte a b v).elementKey i k = s.elementKey i k := rfl

@[simp] theorem State.setAck_cfg (a b : Nat) (v : Bool) : (s.setAck a b v).cfg = s.cfg := rfl
@[simp] theorem State.setAck_capturing (a b : Nat) (v : Bool) : (s.setAck a b v).capturing = s.capturing := rfl
@[simp] theorem State.setAck_busState (a b : Nat) (v : Bool) : (s.setAck a b v).busState = s.busState := rfl
@[simp] theorem State.setAck_primed (a b : Nat) (v : Bool) : (s.setAck a b v).primed = s.primed := rfl
@[simp] theorem State.setAck_activeIndex (a b : Nat) (v : Bool) : (s.setAck a b v).activeIndex = s.activeIndex := rfl
@[simp] theorem State.setAck_selectedIndex (a b : Nat) (v : Bool) : (s.setAck a b v).selectedIndex = s.selectedIndex := rfl
@[simp] theorem State.setAck_store (a b : Nat) (v : Bool) : (s.setAck a b v).store = { s.store with acks := Memory.write false s.store.acks (s.elementKey a b) v } := rfl
@[simp] theorem State.setAck_frontEnd (a b : Nat) (v : Bool) : (s.setAck a b v).frontEnd = s.frontEnd := rfl
@[simp] theorem State.setAck_rd (a b : Nat) (v : Bool) : (s.setAck a b v).rd = s.rd := rfl
@[simp] theorem State.setAck_stimuli (a b : Nat) (v : Bool) : (s.setAck a b v).stimuli = s.stimuli := rfl
@[simp] theorem State.setAck_obs (a b : Nat) (v : Bool) : (s.setAck a b v).obs = s.obs := rfl
@[simp] theorem State.setAck_elementKey (a b : Nat) (v : Bool) (i k : Nat) : (s.setAck a b v).elementKey i k = s.elementKey i k := rfl

@[simp] theorem State.setBitIndex_cfg (a v : Nat) : (s.setBitIndex a v).cfg = s.cfg := rfl
@[simp] theorem State.setBitIndex_capturing (a v : Nat) : (s.setBitIndex a v).capturing = s.capturing := rfl
@[simp] theorem State.setBitIndex_busState (a v : Nat) : (s.setBitIndex a v).busState = s.busState := rfl
@[simp] theorem State.setBitIndex_primed (a v : Nat) : (s.setBitIndex a v).primed = s.primed := rfl
@[simp] theorem State.setBitIndex_activeIndex (a v : Nat) : (s.setBitIndex a v).activeIndex = s.activeIndex := rfl
@[simp] theorem State.setBitIndex_selectedIndex (a v : Nat) : (s.setBitIndex a v).selectedIndex = s.selectedIndex := rfl
@[simp] theorem State.setBitIndex_store (a v : Nat) : (s.setBitIndex a v).store = { s.store with bitIndex := Memory.write 0 s.store.bitIndex a v } := rfl
@[simp] theorem State.setBitIndex_frontEnd (a v : Nat) : (s.setBitIndex a v).frontEnd = s.frontEnd := rfl
@[simp] theorem State.setBitIndex_rd (a v : Nat) : (s.setBitIndex a v).rd = s.rd := rfl
@[simp] theorem State.setBitIndex_stimuli (a v : Nat) : (s.setBitIndex a v).stimuli = s.stimuli := rfl
@[simp] theorem State.setBitIndex_obs (a v : Nat) : (s.setBitIndex a v).obs = s.obs := rfl
@[simp] theorem State.setBitIndex_elementKey (a v : Nat) (i k : Nat) : (s.setBitIndex a v).elementKey i k = s.elementKey i k := rfl

@[simp] theorem State.setByteIndex_cfg (a v : Nat) : (s.setByteIndex a v).cfg = s.cfg := rfl
@[simp] theorem State.setByteIndex_capturing (a v : Nat) : (s.setByteIndex a v).capturing = s.capturing := rfl
@[simp] theorem State.setByteIndex_busState (a v : Nat) : (s.setByteIndex a v).busState = s.busState := rfl
@[simp] theorem State.setByteIndex_primed (a v : Nat) : (s.setByteIndex a v).primed = s.primed := rfl
@[simp] theorem State.setByteIndex_activeIndex (a v : Nat) : (s.setByteIndex a v).activeIndex = s.activeIndex := rfl
@[simp] theorem State.setByteIndex_selectedIndex (a v : Nat) : (s.setByteIndex a v).selectedIndex = s.selectedIndex := rfl
@[simp] theorem State.setByteIndex_store (a v : Nat) : (s.setByteIndex a v).store = { s.store with byteIndex := Memory.write 0 s.store.byteIndex a v } := rfl
@[simp] theorem State.setByteIndex_frontEnd (a v : Nat) : (s.setByteIndex a v).frontEnd = s.frontEnd := rfl
@[simp] theorem State.setByteIndex_rd (a v : Nat) : (s.setByteIndex a v).rd = s.rd := rfl
@[simp] theorem State.setByteIndex_stimuli (a v : Nat) : (s.setByteIndex a v).stimuli = s.stimuli := rfl
@[simp] theorem State.setByteIndex_obs (a v : Nat) : (s.setByteIndex a v).obs = s.obs := rfl
@[simp] theorem State.setByteIndex_elementKey (a v : Nat) (i k : Nat) : (s.setByteIndex a v).elementKey i k = s.elementKey i k := rfl

end Sys2Proof.Machine
end

