-- ==== Sys2Proof/Laws/Memory.lean ====
section
/-! SUPPORT. The laws of the sparse memory: a read after a write, the canonical form kept, and the canonical form
determined by what is read. -/

namespace Sys2Proof.Machine

variable {α : Type}

@[simp] theorem Memory.read_nil (d : α) (x : Nat) : Memory.read d [] x = d := rfl

theorem Memory.read_cons (d : α) (a : Nat) (v : α) (m : List (Nat × α)) (x : Nat) :
    Memory.read d ((a, v) :: m) x = if a = x then v else Memory.read d m x := rfl

theorem Memory.erase_cons (x a : Nat) (v : α) (m : List (Nat × α)) :
    Memory.erase x ((a, v) :: m) = if a = x then Memory.erase x m else (a, v) :: Memory.erase x m := by
  by_cases h : a = x <;> simp [Memory.erase, h]

theorem Memory.read_erase_same (d : α) (m : List (Nat × α)) (x : Nat) :
    Memory.read d (Memory.erase x m) x = d := by
  induction m with
  | nil => rfl
  | cons e m ih =>
    obtain ⟨a, v⟩ := e
    rw [Memory.erase_cons]
    split
    · exact ih
    · next h => rw [Memory.read_cons, if_neg h, ih]

theorem Memory.read_erase_other (d : α) (m : List (Nat × α)) {x y : Nat} (h : y ≠ x) :
    Memory.read d (Memory.erase x m) y = Memory.read d m y := by
  induction m with
  | nil => rfl
  | cons e m ih =>
    obtain ⟨a, v⟩ := e
    rw [Memory.erase_cons]
    split
    · next hax => rw [Memory.read_cons, if_neg (by omega), ih]
    · rw [Memory.read_cons, Memory.read_cons, ih]

theorem Memory.mem_erase {x : Nat} {m : List (Nat × α)} {e : Nat × α} :
    e ∈ Memory.erase x m ↔ e ∈ m ∧ e.1 ≠ x := by
  simp [Memory.erase]

theorem Memory.read_of_absent (d : α) {m : List (Nat × α)} {x : Nat} (h : ∀ e ∈ m, e.1 ≠ x) :
    Memory.read d m x = d := by
  induction m with
  | nil => rfl
  | cons e m ih =>
    obtain ⟨a, v⟩ := e
    rw [Memory.read_cons, if_neg (h (a, v) (by simp)), ih fun e he => h e (by simp [he])]

theorem Memory.read_place_same (d : α) (v : α) {m : List (Nat × α)} {x : Nat} (h : ∀ e ∈ m, e.1 ≠ x) :
    Memory.read d (Memory.place x v m) x = v := by
  induction m with
  | nil => simp [Memory.place, Memory.read]
  | cons e m ih =>
    obtain ⟨a, u⟩ := e
    rw [Memory.place]
    split
    · rw [Memory.read_cons, if_pos rfl]
    · rw [Memory.read_cons, if_neg (h (a, u) (by simp)), ih fun e he => h e (by simp [he])]

theorem Memory.read_place_other (d : α) (v : α) (m : List (Nat × α)) {x y : Nat} (h : y ≠ x) :
    Memory.read d (Memory.place x v m) y = Memory.read d m y := by
  induction m with
  | nil => rw [Memory.place, Memory.read_cons, if_neg (Ne.symm h)]
  | cons e m ih =>
    obtain ⟨a, u⟩ := e
    rw [Memory.place]
    split
    · rw [Memory.read_cons, if_neg (Ne.symm h)]
    · rw [Memory.read_cons, Memory.read_cons, ih]

theorem Memory.mem_place {x : Nat} {v : α} {m : List (Nat × α)} {e : Nat × α} :
    e ∈ Memory.place x v m ↔ e = (x, v) ∨ e ∈ m := by
  induction m with
  | nil => simp [Memory.place]
  | cons f m ih =>
    obtain ⟨a, u⟩ := f
    rw [Memory.place]
    split
    · simp
    · simp only [List.mem_cons, ih]
      tauto

variable [DecidableEq α]

/-- A read of the key just written gives the value written. -/
@[simp] theorem Memory.read_write_same (d : α) (m : List (Nat × α)) (x : Nat) (v : α) :
    Memory.read d (Memory.write d m x v) x = v := by
  rw [Memory.write]
  split
  · next h => rw [Memory.read_erase_same, h]
  · exact Memory.read_place_same d v fun e he => (Memory.mem_erase.1 he).2

/-- A write leaves every other key as it was. -/
theorem Memory.read_write_other (d : α) (m : List (Nat × α)) {x y : Nat} (v : α) (h : y ≠ x) :
    Memory.read d (Memory.write d m x v) y = Memory.read d m y := by
  rw [Memory.write]
  split
  · exact Memory.read_erase_other d m h
  · rw [Memory.read_place_other d v _ h, Memory.read_erase_other d m h]

theorem Memory.read_write (d : α) (m : List (Nat × α)) (x y : Nat) (v : α) :
    Memory.read d (Memory.write d m x v) y = if y = x then v else Memory.read d m y := by
  split
  · next h => rw [h, Memory.read_write_same]
  · next h => exact Memory.read_write_other d m v h

theorem Memory.mem_write {d : α} {m : List (Nat × α)} {x : Nat} {v : α} {e : Nat × α}
    (h : e ∈ Memory.write d m x v) : e = (x, v) ∨ e ∈ m := by
  rw [Memory.write] at h
  split at h
  · exact .inr (Memory.mem_erase.1 h).1
  · exact (Memory.mem_place.1 h).imp id fun he => (Memory.mem_erase.1 he).1

/-- A write inside a bound keeps every listed key inside it. -/
theorem Memory.write_keys_lt {d : α} {m : List (Nat × α)} {x n : Nat} (v : α) (hm : ∀ e ∈ m, e.1 < n) (hx : x < n) :
    ∀ e ∈ Memory.write d m x v, e.1 < n := by
  intro e he
  rcases Memory.mem_write he with rfl | he
  · exact hx
  · exact hm e he

omit [DecidableEq α] in
theorem Memory.place_rising {x : Nat} {v : α} {m : List (Nat × α)} (hm : (m.map Prod.fst).Pairwise (· < ·))
    (hx : ∀ e ∈ m, e.1 ≠ x) : ((Memory.place x v m).map Prod.fst).Pairwise (· < ·) := by
  induction m with
  | nil => simp [Memory.place]
  | cons e m ih =>
    obtain ⟨a, u⟩ := e
    rw [List.map_cons, List.pairwise_cons] at hm
    have hax : a ≠ x := hx (a, u) (by simp)
    rw [Memory.place]
    split
    · next h =>
      rw [List.map_cons, List.map_cons, List.pairwise_cons, List.pairwise_cons]
      refine ⟨fun b hb => ?_, hm⟩
      rcases List.mem_cons.1 hb with rfl | hb
      · exact h
      · exact h.trans (hm.1 b hb)
    · rw [List.map_cons, List.pairwise_cons]
      refine ⟨fun b hb => ?_, ih hm.2 fun e he => hx e (by simp [he])⟩
      obtain ⟨e, he, rfl⟩ := List.mem_map.1 hb
      rcases Memory.mem_place.1 he with rfl | he
      · show a < x
        omega
      · exact hm.1 _ (List.mem_map.2 ⟨e, he, rfl⟩)

/-- Every write keeps the canonical form. -/
theorem Memory.write_wf {d : α} {m : List (Nat × α)} (h : Memory.wf d m) (x : Nat) (v : α) :
    Memory.wf d (Memory.write d m x v) := by
  have he : ((Memory.erase x m).map Prod.fst).Pairwise (· < ·) :=
    h.1.sublist (List.filter_sublist.map Prod.fst)
  rw [Memory.write]
  split
  · exact ⟨he, fun e hm => h.2 e (Memory.mem_erase.1 hm).1⟩
  · next hv =>
    refine ⟨Memory.place_rising he fun e hm => (Memory.mem_erase.1 hm).2, fun e hm => ?_⟩
    rcases Memory.mem_place.1 hm with rfl | hm
    · exact hv
    · exact h.2 e (Memory.mem_erase.1 hm).1

@[simp] theorem Memory.nil_wf (d : α) : Memory.wf d ([] : List (Nat × α)) := ⟨.nil, by simp⟩

omit [DecidableEq α] in
/-- Only listed keys read as something else than `d`. -/
theorem Memory.listed_of_read {d : α} {m : List (Nat × α)} {x : Nat} (h : Memory.read d m x ≠ d) :
    ∃ e ∈ m, e.1 = x := by
  by_contra hc
  exact h (Memory.read_of_absent d fun e he hx => hc ⟨e, he, hx⟩)

theorem FrameStore.empty_wf : FrameStore.empty.wf :=
  ⟨Memory.nil_wf _, Memory.nil_wf _, Memory.nil_wf _, Memory.nil_wf _⟩

end Sys2Proof.Machine
end

