-- ==== Sys2Proof/Laws/Store.lean ====
section
/-! SUPPORT. The laws of the Frame Store: distinct elements have distinct keys, what each write changes and leaves, and
that every operation keeps the canonical form. -/

namespace Sys2Proof.Machine

variable (s : State)

/-- Two elements with positions below `N` have the same key only if they are the same element. -/
theorem State.elementKey_inj {i j k l : Nat} (hk : k < s.cfg.N) (hl : l < s.cfg.N)
    (h : s.elementKey i k = s.elementKey j l) : i = j ∧ k = l := by
  unfold State.elementKey at h
  have hN : 0 < s.cfg.N := by omega
  have hi : (i * s.cfg.N + k) / s.cfg.N = i := by
    rw [Nat.mul_comm, Nat.mul_add_div hN, Nat.div_eq_of_lt hk, Nat.add_zero]
  have hj : (j * s.cfg.N + l) / s.cfg.N = j := by
    rw [Nat.mul_comm, Nat.mul_add_div hN, Nat.div_eq_of_lt hl, Nat.add_zero]
  have hij : i = j := by rw [← hi, h, hj]
  subst hij
  exact ⟨rfl, by omega⟩

/-- An element of the store has a key below `M * N`. -/
theorem State.elementKey_lt {i k : Nat} (hi : i < s.cfg.M) (hk : k < s.cfg.N) :
    s.elementKey i k < s.cfg.M * s.cfg.N := by
  unfold State.elementKey
  calc i * s.cfg.N + k < i * s.cfg.N + s.cfg.N := by omega
    _ = (i + 1) * s.cfg.N := by ring
    _ ≤ s.cfg.M * s.cfg.N := Nat.mul_le_mul_right _ hi

section writes

variable (i k v : Nat) (b : Byte) (a : Bool) (j l : Nat)

@[simp] theorem State.setByte_byteAt_same : (s.setByte i k b).byteAt i k = b := by
  simp [State.byteAt]

theorem State.setByte_byteAt_key :
    (s.setByte i k b).byteAt j l = if s.elementKey j l = s.elementKey i k then b else s.byteAt j l := by
  simp only [State.byteAt, State.setByte_store, State.setByte_elementKey, Memory.read_write]

@[simp] theorem State.setByte_ackAt : (s.setByte i k b).ackAt j l = s.ackAt j l := rfl
@[simp] theorem State.setByte_bitIndexOf : (s.setByte i k b).bitIndexOf j = s.bitIndexOf j := rfl
@[simp] theorem State.setByte_byteIndexOf : (s.setByte i k b).byteIndexOf j = s.byteIndexOf j := rfl

@[simp] theorem State.setAck_ackAt_same : (s.setAck i k a).ackAt i k = a := by
  simp [State.ackAt]

theorem State.setAck_ackAt_key :
    (s.setAck i k a).ackAt j l = if s.elementKey j l = s.elementKey i k then a else s.ackAt j l := by
  simp only [State.ackAt, State.setAck_store, State.setAck_elementKey, Memory.read_write]

@[simp] theorem State.setAck_byteAt : (s.setAck i k a).byteAt j l = s.byteAt j l := rfl
@[simp] theorem State.setAck_bitIndexOf : (s.setAck i k a).bitIndexOf j = s.bitIndexOf j := rfl
@[simp] theorem State.setAck_byteIndexOf : (s.setAck i k a).byteIndexOf j = s.byteIndexOf j := rfl

@[simp] theorem State.setBitIndex_bitIndexOf :
    (s.setBitIndex i v).bitIndexOf j = if j = i then v else s.bitIndexOf j := by
  simp only [State.bitIndexOf, State.setBitIndex_store, Memory.read_write]

@[simp] theorem State.setBitIndex_byteIndexOf : (s.setBitIndex i v).byteIndexOf j = s.byteIndexOf j := rfl
@[simp] theorem State.setBitIndex_byteAt : (s.setBitIndex i v).byteAt j l = s.byteAt j l := rfl
@[simp] theorem State.setBitIndex_ackAt : (s.setBitIndex i v).ackAt j l = s.ackAt j l := rfl

@[simp] theorem State.setByteIndex_byteIndexOf :
    (s.setByteIndex i v).byteIndexOf j = if j = i then v else s.byteIndexOf j := by
  simp only [State.byteIndexOf, State.setByteIndex_store, Memory.read_write]

@[simp] theorem State.setByteIndex_bitIndexOf : (s.setByteIndex i v).bitIndexOf j = s.bitIndexOf j := rfl
@[simp] theorem State.setByteIndex_byteAt : (s.setByteIndex i v).byteAt j l = s.byteAt j l := rfl
@[simp] theorem State.setByteIndex_ackAt : (s.setByteIndex i v).ackAt j l = s.ackAt j l := rfl

variable {i k j l}

/-- Another element keeps its byte. -/
theorem State.setByte_byteAt_other (hl : l < s.cfg.N) (hk : k < s.cfg.N) (h : ¬(j = i ∧ l = k)) :
    (s.setByte i k b).byteAt j l = s.byteAt j l := by
  rw [State.setByte_byteAt_key, if_neg fun he => h (s.elementKey_inj hl hk he)]

/-- Another element keeps its ack flag. -/
theorem State.setAck_ackAt_other (hl : l < s.cfg.N) (hk : k < s.cfg.N) (h : ¬(j = i ∧ l = k)) :
    (s.setAck i k a).ackAt j l = s.ackAt j l := by
  rw [State.setAck_ackAt_key, if_neg fun he => h (s.elementKey_inj hl hk he)]

end writes

section cleared

@[simp] theorem State.fsReset_byteAt (i k : Nat) : s.fsReset.byteAt i k = 0 := rfl
@[simp] theorem State.fsReset_ackAt (i k : Nat) : s.fsReset.ackAt i k = false := rfl
@[simp] theorem State.fsReset_bitIndexOf (i : Nat) : s.fsReset.bitIndexOf i = 0 := rfl
@[simp] theorem State.fsReset_byteIndexOf (i : Nat) : s.fsReset.byteIndexOf i = 0 := rfl

/-- On a store that is already clear `FS_RESET()` changes nothing more (R120). -/
theorem State.fsReset_fsReset : s.fsReset.fsReset = s.fsReset := rfl

end cleared

section canonical

theorem State.setByte_wf (h : s.store.wf) (i k : Nat) (v : Byte) : (s.setByte i k v).store.wf :=
  ⟨Memory.write_wf h.1 _ _, h.2⟩

theorem State.setAck_wf (h : s.store.wf) (i k : Nat) (v : Bool) : (s.setAck i k v).store.wf :=
  ⟨h.1, Memory.write_wf h.2.1 _ _, h.2.2⟩

theorem State.setBitIndex_wf (h : s.store.wf) (i v : Nat) : (s.setBitIndex i v).store.wf :=
  ⟨h.1, h.2.1, Memory.write_wf h.2.2.1 _ _, h.2.2.2⟩

theorem State.setByteIndex_wf (h : s.store.wf) (i v : Nat) : (s.setByteIndex i v).store.wf :=
  ⟨h.1, h.2.1, h.2.2.1, Memory.write_wf h.2.2.2 _ _⟩

theorem State.fsReset_wf : s.fsReset.store.wf := FrameStore.empty_wf

theorem State.hardReset_wf : s.hardReset.store.wf := FrameStore.empty_wf

/-- The memory of the reset state lists nothing. -/
theorem State.reset_wf : State.reset.store.wf := FrameStore.empty_wf

end canonical

section readPort

/-- In range, the read port shows the element and the byte cursor of the frame (R122). -/
theorem State.readPort_inRange {i k : Nat} (hi : i < s.cfg.M) (hk : k < s.cfg.N) :
    s.readPort i k = { rdByte := s.byteAt i k, rdAck := s.ackAt i k, rdByteIndex := s.byteIndexOf i } :=
  if_pos ⟨hi, hk⟩

/-- Out of range, every output is zero (R46). -/
theorem State.readPort_outOfRange {i k : Nat} (h : s.cfg.M ≤ i ∨ s.cfg.N ≤ k) :
    s.readPort i k = { rdByte := 0, rdAck := false, rdByteIndex := 0 } :=
  if_neg (by omega)

end readPort

end Sys2Proof.Machine
end

