-- ==== Sys2Proof/Laws/Ops.lean ====
section
/-! SUPPORT. What each shared operation can do, said once: the edge test, the clock test, a start condition, the data and
ack bit, and what `exec` answers for every operation. -/

namespace Sys2Proof.Machine

variable (s : State)

section tests

@[simp] theorem edgeKind_clockLow (sda : Level) (b : BusState) : edgeKind .low sda b = .spurious := rfl
@[simp] theorem edgeKind_start (b : BusState) : edgeKind .high .low b = .start := by cases b <;> rfl
@[simp] theorem edgeKind_stop : edgeKind .high .high .started = .stop := rfl
@[simp] theorem edgeKind_highIdle : edgeKind .high .high .idle = .nothing := rfl

/-- Every reading of the two lines falls under one of the four outcomes of R91. -/
theorem edgeKind_cases (scl sda : Level) (b : BusState) :
    (scl = .low ∧ edgeKind scl sda b = .spurious) ∨
      (scl = .high ∧ sda = .high ∧ b = .started ∧ edgeKind scl sda b = .stop) ∨
      (scl = .high ∧ sda = .low ∧ edgeKind scl sda b = .start) ∨
      (scl = .high ∧ sda = .high ∧ b = .idle ∧ edgeKind scl sda b = .nothing) := by
  cases scl <;> cases sda <;> cases b <;> decide

theorem State.startKind_priming (h : s.primed = false) : s.startKind = .priming := if_pos h

theorem State.startKind_overflow (hp : s.primed = true) (h : s.cfg.M ≤ s.activeIndex + 1) :
    s.startKind = .overflow := by
  simp [State.startKind, hp, h]

theorem State.startKind_nextFrame (hp : s.primed = true) (h : s.activeIndex + 1 < s.cfg.M) :
    s.startKind = .nextFrame := by
  simp [State.startKind, hp, h]

theorem State.clockKind_ignored (h : s.busState = .idle) : s.clockKind = .ignored := if_pos h

theorem State.clockKind_full (hb : s.busState = .started) (h : s.cfg.N ≤ s.activeByte) :
    s.clockKind = .full := by
  simp [State.clockKind, hb, h]

theorem State.clockKind_dataBit (hb : s.busState = .started) (h : s.activeByte < s.cfg.N)
    (hd : s.activeBit < 8) : s.clockKind = .dataBit := by
  simp [State.clockKind, hb, h, hd]

theorem State.clockKind_ackBit (hb : s.busState = .started) (h : s.activeByte < s.cfg.N)
    (hd : 8 ≤ s.activeBit) : s.clockKind = .ackBit := by
  simp [State.clockKind, hb, Nat.not_le.2 h, Nat.not_lt.2 hd]

end tests

section effects

/-- The three ways a start condition can end (R84, R85, R86). -/
theorem State.startCondition_cases :
    (s.primed = false ∧ s.startCondition = { s with busState := .started, primed := true }) ∨
      (s.primed = true ∧ s.activeIndex + 1 < s.cfg.M ∧
        s.startCondition = { s with busState := .started, activeIndex := s.activeIndex + 1 }) ∨
      (s.primed = true ∧ s.cfg.M ≤ s.activeIndex + 1 ∧ s.startCondition = s.overflowStart) := by
  unfold State.startCondition
  cases hp : s.primed with
  | false => rw [s.startKind_priming hp]; exact .inl ⟨rfl, rfl⟩
  | true =>
    by_cases h : s.activeIndex + 1 < s.cfg.M
    · rw [s.startKind_nextFrame hp h]; exact .inr (.inl ⟨rfl, h, rfl⟩)
    · rw [s.startKind_overflow hp (by omega)]; exact .inr (.inr ⟨rfl, by omega, rfl⟩)

/-- The four ways a data-line edge can end while capturing (R91). -/
theorem State.dataEdge_cases (scl sda : Level) :
    (scl = .low ∧ s.dataEdge scl sda = s.note .spuriousEdge) ∨
      (scl = .high ∧ sda = .high ∧ s.busState = .started ∧ s.dataEdge scl sda = s.stopCondition) ∨
      (scl = .high ∧ sda = .low ∧ s.dataEdge scl sda = s.startCondition) ∨
      (scl = .high ∧ sda = .high ∧ s.busState = .idle ∧ s.dataEdge scl sda = s) := by
  unfold State.dataEdge
  obtain ⟨h, hk⟩ | ⟨h, h', hb, hk⟩ | ⟨h, h', hk⟩ | ⟨h, h', hb, hk⟩ := edgeKind_cases scl sda s.busState
  · exact .inl ⟨h, by rw [hk]⟩
  · exact .inr (.inl ⟨h, h', hb, by rw [hk]⟩)
  · exact .inr (.inr (.inl ⟨h, h', by rw [hk]⟩))
  · exact .inr (.inr (.inr ⟨h, h', hb, by rw [hk]⟩))

/-- The four ways a rising clock edge can end while capturing (R109). -/
theorem State.clockRise_cases (sda : Level) :
    (s.busState = .idle ∧ s.clockRise sda = s) ∨
      (s.busState = .started ∧ s.cfg.N ≤ s.activeByte ∧ s.clockRise sda = s.note .frameFull) ∨
      (s.busState = .started ∧ s.activeByte < s.cfg.N ∧ s.activeBit < 8 ∧ s.clockRise sda = s.takeDataBit sda) ∨
      (s.busState = .started ∧ s.activeByte < s.cfg.N ∧ 8 ≤ s.activeBit ∧ s.clockRise sda = s.takeAckBit sda) := by
  unfold State.clockRise
  cases hb : s.busState with
  | idle => rw [s.clockKind_ignored hb]; exact .inl ⟨rfl, rfl⟩
  | started =>
    by_cases hN : s.cfg.N ≤ s.activeByte
    · rw [s.clockKind_full hb hN]; exact .inr (.inl ⟨rfl, hN, rfl⟩)
    · by_cases hd : s.activeBit < 8
      · rw [s.clockKind_dataBit hb (by omega) hd]; exact .inr (.inr (.inl ⟨rfl, by omega, hd, rfl⟩))
      · rw [s.clockKind_ackBit hb (by omega) (by omega)]
        exact .inr (.inr (.inr ⟨rfl, by omega, by omega, rfl⟩))

/-- Everything a data bit writes lies in the Frame Store. -/
theorem State.takeDataBit_outside (sda : Level) : { s.takeDataBit sda with store := s.store } = s := rfl

/-- Everything an ack bit writes lies in the Frame Store. -/
theorem State.takeAckBit_outside (sda : Level) : { s.takeAckBit sda with store := s.store } = s := rfl

end effects

section exec

@[simp] theorem exec_nop : exec .nop s = .next s := rfl

theorem exec_sdaEdge (scl sda : Level) :
    exec (.sdaEdge scl sda) s = .next (if s.capturing then s.dataEdge scl sda else s) := rfl

theorem exec_sclRise (sda : Level) :
    exec (.sclRise sda) s = .next (if s.capturing then s.clockRise sda else s) := rfl

theorem exec_cmdStart :
    exec .cmdStart s = .next (if s.capturing then s.note .doubleStart else { s.fsReset with capturing := true }) := rfl

theorem exec_cmdStop : exec .cmdStop s = .next (if s.capturing then { s with capturing := false } else s) := rfl

theorem exec_cmdSelNext :
    exec .cmdSelNext s = .next { s with selectedIndex := min (s.selectedIndex + 1) s.activeIndex } := rfl

theorem exec_cmdSelPrev : exec .cmdSelPrev s = .next { s with selectedIndex := s.selectedIndex - 1 } := rfl

theorem exec_getFrameCount : exec .getFrameCount s = .next (s.answer (.frameCount s.frameCount)) := rfl

theorem exec_getBusState : exec .getBusState s = .next (s.answer (.busState s.busState)) := rfl

theorem exec_getFrame :
    exec .getFrame s =
      .next (s.answer (.frame (s.readPort s.frameOperand s.posOperand) (s.snapshot s.frameOperand))) := rfl

end exec

section running

@[simp] theorem execAll_nil : execAll [] s = .next s := rfl

theorem execAll_cons_next {i : Instr} {is : List Instr} {t : State} (h : exec i s = .next t) :
    execAll (i :: is) s = execAll is t := by
  rw [execAll, h]

end running

section runs

/-- A run takes its first step and goes on from there, on any machine. -/
theorem run_succ (C : Host.Core) {n : Nat} {x y : C.State} (h : C.step x = .next y) : C.run (n + 1) x = C.run n y := by
  rw [Host.Core.run, h]

/-- A run that ends in a next state took a first step to a next state, on any machine. -/
theorem run_succ_inv (C : Host.Core) {n : Nat} {x z : C.State} (h : C.run (n + 1) x = .next z) :
    ∃ y, C.step x = .next y ∧ C.run n y = .next z := by
  rw [Host.Core.run] at h
  cases hs : C.step x with
  | next y => rw [hs] at h; exact ⟨y, rfl, h⟩
  | fault r => rw [hs] at h; cases h
  | refused r => rw [hs] at h; cases h

/-- A run of no step is where it began. -/
theorem runsTo_zero : RunsTo 0 s s := rfl

theorem runsTo_zero_inv {t : State} (h : RunsTo 0 s t) : t = s := by
  injection h with h
  exact h.symm

/-- A run of this machine takes its first step and goes on from there. -/
theorem runsTo_succ {n : Nat} {u t : State} (h : step s = .next u) (hr : RunsTo n u t) : RunsTo (n + 1) s t :=
  (run_succ Sys2Proof.core h).trans hr

/-- A run of this machine that ends took a first step. -/
theorem runsTo_succ_inv {n : Nat} {t : State} (h : RunsTo (n + 1) s t) : ∃ u, step s = .next u ∧ RunsTo n u t :=
  run_succ_inv Sys2Proof.core h

end runs

section operands

/-- Shifting a level in at most doubles the byte and adds one. -/
theorem shiftIn_toNat_le (b : Byte) (d : Level) : (shiftIn b d).toNat ≤ 2 * b.toNat + 1 := by
  revert b
  cases d <;> decide

/-- Bit by bit: the level enters at bit 0 and every other bit moves up by one (R43). -/
theorem shiftIn_getLsbD (b : Byte) (d : Level) (n : Nat) :
    (shiftIn b d).getLsbD n = if n = 0 then decide (d = .high) else decide (n < 8) && b.getLsbD (n - 1) := by
  cases d <;> rcases n with _ | n <;> simp [shiftIn, bitOfLevel, BitVec.getLsbD_one]

end operands

section decoding

theorem step_word {w : Byte} {rd : ReadSel} {rest : List Stimulus} (h : s.stimuli = .word w rd :: rest) :
    step s = wordStep w rd rest s := by
  rw [step, h]

theorem step_cycle {p : Pins} {rest : List Stimulus} (h : s.stimuli = .cycle p :: rest) :
    step s = cycleStep p rest s := by
  rw [step, h]

theorem step_idle (h : s.stimuli = []) : step s = idleStep s := by
  rw [step, h]

end decoding

end Sys2Proof.Machine
end

