-- ==== Sys2Proof/Laws/PerInstr.lean ====
section
/-! SUPPORT. The per-instruction family EncodeLegal: the encoder gives every operation one of the 14 legal words. -/

/-- The word of the operation has its zero field clear, is one of the 14 legal words of R65 and is not among the reserved
words of R64. -/
def Sys2Proof.Laws.EncodeLegal.Statement (i : Sys2Proof.Instr) : Prop :=
  Sys2Proof.wordZero (Sys2Proof.encode i) = 0 ∧ Sys2Proof.encode i ∈ Sys2Proof.legalWords ∧
    Sys2Proof.reservedWord (Sys2Proof.encode i) = false

namespace Sys2Proof.Laws.EncodeLegal

theorem nop : Statement .nop := by unfold Statement; decide

theorem sdaEdge (scl sda : Level) : Statement (.sdaEdge scl sda) := by
  unfold Statement; cases scl <;> cases sda <;> decide

theorem sclRise (sda : Level) : Statement (.sclRise sda) := by unfold Statement; cases sda <;> decide

theorem cmdStart : Statement .cmdStart := by unfold Statement; decide

theorem cmdStop : Statement .cmdStop := by unfold Statement; decide

theorem cmdSelNext : Statement .cmdSelNext := by unfold Statement; decide

theorem cmdSelPrev : Statement .cmdSelPrev := by unfold Statement; decide

theorem getFrameCount : Statement .getFrameCount := by unfold Statement; decide

theorem getBusState : Statement .getBusState := by unfold Statement; decide

theorem getFrame : Statement .getFrame := by unfold Statement; decide

end Sys2Proof.Laws.EncodeLegal
end

