-- ==== Sys2Proof/Tests/Slice0.lean ====
section
/-! SUPPORT. The model's own tests: the encodings written out from 30_encoding.md, the well-formedness checks, single
steps with the expected values of 95_test_vectors.md, and for every statement with hypotheses a witness that meets
them. -/

open Sys2Proof Sys2Proof.Machine

namespace Sys2Proof.Tests

/-! ### Decoding: words written out bit by bit from the patterns of R62 -/

theorem test_decode_nop : decodeWord 0b00000000 = .instr .nop := by decide
theorem test_decode_sdaEdge_c0_d1 : decodeWord 0b00100001 = .instr (.sdaEdge .low .high) := by decide
theorem test_decode_sdaEdge_c1_d0 : decodeWord 0b00100010 = .instr (.sdaEdge .high .low) := by decide
theorem test_decode_sclRise_d0 : decodeWord 0b01000010 = .instr (.sclRise .low) := by decide
theorem test_decode_sclRise_d1 : decodeWord 0b01000011 = .instr (.sclRise .high) := by decide
theorem test_decode_cmdStart : decodeWord 0b01100000 = .instr .cmdStart := by decide
theorem test_decode_cmdStop : decodeWord 0b10000000 = .instr .cmdStop := by decide
theorem test_decode_cmdSelNext : decodeWord 0b10100000 = .instr .cmdSelNext := by decide
theorem test_decode_cmdSelPrev : decodeWord 0b11000000 = .instr .cmdSelPrev := by decide
theorem test_decode_getFrameCount : decodeWord 0b11100000 = .instr .getFrameCount := by decide
theorem test_decode_getBusState : decodeWord 0b11100001 = .instr .getBusState := by decide
theorem test_decode_getFrame : decodeWord 0b11100010 = .instr .getFrame := by decide

/-- 95_test_vectors.md 2.5: the words a decoder must reject. -/
theorem test_decode_rejects :
    (([0x01, 0x02, 0x03, 0x04, 0x1F, 0x24, 0x3F, 0x40, 0x41, 0x44, 0x61, 0x62, 0x63, 0x81, 0xA1, 0xC1, 0xE3, 0xE4,
      0xFF] : List Byte).all fun w => match decodeWord w with
        | .instr _ => false
        | .reserved _ => true) = true := by decide

/-- The rows of the opcode map do not overlap. -/
theorem test_opcodeRows_disjoint :
    opcodeRows.Pairwise fun r q => r.pattern &&& (r.mask &&& q.mask) ≠ q.pattern &&& (r.mask &&& q.mask) := by decide

/-- R68: `BUS_START` is 0x22, `BUS_STOP` 0x23, and `BUS_BYTE 0xA2, ACK` the nine words of 95_test_vectors.md 2.2. -/
theorem test_pseudo_operations : encode busStart = 0x22 ∧ encode busStop = 0x23 ∧
    (busByte 0xA2 .low).map encode = [0x43, 0x42, 0x43, 0x42, 0x42, 0x42, 0x43, 0x42, 0x42] := by decide

/-- R67: the assembler text. -/
theorem test_assembly_text : assemblyText busStart ⟨0, 0⟩ = "SDA_EDGE 1, 0" ∧
    assemblyText .getFrame ⟨2, 0⟩ = "GET_FRAME 2" := by decide

/-- R191: what the command port takes and what it does not. -/
theorem test_command_port : commandOfPort 0b011 = some .cmdStart ∧ commandOfPort 0b110 = some .cmdSelPrev ∧
    commandOfPort 0b001 = none ∧ commandOfPort 0b010 = none ∧ commandOfPort 0b111 = none := by decide

theorem test_table_word : decodeTableWord 8 0x42 = some (.sclRise .low) ∧ decodeTableWord 8 0x40 = none := by decide

/-! ### Well-formedness: each check refuses an ill-formed term -/

theorem smoke_config_without_bytes : Config.wellFormed ⟨0, 1, false⟩ = false := by decide
theorem smoke_config_without_frames : Config.wellFormed ⟨1, 0, false⟩ = false := by decide
theorem smoke_config_good : Config.wellFormed ⟨2, 4, false⟩ = true := by decide
theorem smoke_reserved_zero_field : reservedWord 0x24 = true := by decide
theorem smoke_reserved_low_bits : reservedWord 0x41 = true := by decide
theorem smoke_read_frame_too_wide : ReadSel.fits ⟨2, 4, false⟩ ⟨4, 0⟩ = false := by decide
theorem smoke_read_pos_too_wide : ReadSel.fits ⟨2, 4, false⟩ ⟨0, 2⟩ = false := by decide
theorem smoke_stimulus_reserved : Stimulus.wellFormed ⟨2, 4, false⟩ (.word 0xE3 ⟨0, 0⟩) = false := by decide
theorem smoke_stimulus_cycle :
    Stimulus.wellFormed ⟨2, 4, false⟩ (.cycle ⟨.high, .high, .high, false, 0, ⟨9, 0⟩⟩) = false := by decide
theorem smoke_stimulus_good : Stimulus.wellFormed ⟨2, 4, false⟩ (.word 0x22 ⟨3, 1⟩) = true := by decide

/-! ### Single steps -/

/-- The next state, if there is one. -/
def nextOf : Host.Outcome State Fault Refusal → Option State
  | .next t => some t
  | .fault _ => none
  | .refused _ => none

/-- A state with given parameters, states, indices and store, and nothing else set. -/
def mk (c : Config) (cap : Bool) (bus : BusState) (primed : Bool) (act sel : Nat) (f : FrameStore) : State :=
  { State.resetOf c with
    capturing := cap, busState := bus, primed := primed, activeIndex := act, selectedIndex := sel, store := f }

/-- One transaction closed in frame 0 and one open in frame 1, three bits into its first byte (`N = 2`, `M = 4`). -/
def openFrame : State :=
  mk ⟨2, 4, false⟩ true .started true 1 1
    { bytes := [(0, 0xA2), (2, 0x05)], acks := [(0, true)], bitIndex := [(1, 3)], byteIndex := [(0, 1)] }

/-- Frame 0 with one byte and its ack clock to come. -/
def ackDue : State :=
  mk ⟨2, 4, false⟩ true .started true 0 0
    { bytes := [(0, 0xA2)], acks := [], bitIndex := [(0, 8)], byteIndex := [] }

/-- Frame 0 full. -/
def fullFrame : State :=
  mk ⟨2, 4, false⟩ true .started true 0 0
    { bytes := [(0, 0xA2), (1, 0x5A)], acks := [(0, true)], bitIndex := [], byteIndex := [(0, 2)] }

/-- The last frame active, three bits into a byte. -/
def lastFrame (alt : Bool) : State :=
  mk ⟨2, 4, alt⟩ true .started true 3 1 { bytes := [(6, 0x05)], acks := [], bitIndex := [(3, 3)], byteIndex := [] }

/-- A session that has just begun. -/
def justStarted : State := mk ⟨2, 4, false⟩ true .idle false 0 0 FrameStore.empty

/-- A stopped session with a capture. -/
def stopped : State := { openFrame with capturing := false }

/-- V-SDA-3: a stop condition keeps the partial byte and pulses redraw. -/
theorem test_sdaEdge_stop : (nextOf (exec (.sdaEdge .high .high) openFrame)).map
    (fun t => (t.busState, t.primed, t.activeIndex, t.obs.redraw, t.byteAt 1 0, t.bitIndexOf 1)) =
    some (.idle, true, 1, true, 0x05, 3) := by decide

/-- V-SDA-10: a repeated start on the last frame clears everything and re-arms priming. -/
theorem test_sdaEdge_overflow : (nextOf (exec (.sdaEdge .high .low) (lastFrame false))).map
    (fun t => (t.busState, t.primed, t.activeIndex, t.selectedIndex, t.store)) =
    some (.idle, false, 0, 0, FrameStore.empty) := by decide

/-- V-SCL-4: the eighth bit lands in bit 0. -/
theorem test_sclRise_data : (nextOf (exec (.sclRise .low) (mk ⟨2, 2, false⟩ true .started true 0 0
    { bytes := [(0, 0x51)], acks := [], bitIndex := [(0, 7)], byteIndex := [] }))).map
    (fun t => (t.byteAt 0 0, t.ackAt 0 0, t.bitIndexOf 0, t.byteIndexOf 0)) = some (0xA2, false, 8, 0) := by decide

/-- V-SCL-6: a low ninth clock is an ACK. -/
theorem test_sclRise_ack : (nextOf (exec (.sclRise .low) ackDue)).map
    (fun t => (t.byteAt 0 0, t.ackAt 0 0, t.bitIndexOf 0, t.byteIndexOf 0)) = some (0xA2, true, 0, 1) := by decide

/-- V-SES-2: a start clears the earlier session. -/
theorem test_cmdStart_clears : (nextOf (exec .cmdStart stopped)).map
    (fun t => (t.capturing, t.busState, t.primed, t.activeIndex, t.selectedIndex, t.store)) =
    some (true, .idle, false, 0, 0, FrameStore.empty) := by decide

/-- V-SES-3: a double start changes nothing and is noted. -/
theorem test_cmdStart_double : (nextOf (exec .cmdStart openFrame)).map (fun t => (t.store, t.obs.noted)) =
    some (openFrame.store, [.doubleStart]) := by decide

/-- V-SES-4: a stop keeps the Bus State and the partial byte. -/
theorem test_cmdStop_keeps : (nextOf (exec .cmdStop openFrame)).map
    (fun t => (t.capturing, t.busState, t.store)) = some (false, .started, openFrame.store) := by decide

/-- V-FS-8: the selection is clamped at `activeIndex`. -/
theorem test_cmdSelNext_clamped : (nextOf (exec .cmdSelNext openFrame)).map State.selectedIndex = some 1 := by decide

/-- V-FS-11: the selection is clamped at 0. -/
theorem test_cmdSelPrev_clamped : (nextOf (exec .cmdSelPrev justStarted)).map State.selectedIndex = some 0 := by decide

/-- V-FS-2: the count is `activeIndex + 1`. -/
theorem test_getFrameCount : (nextOf (exec .getFrameCount (lastFrame false))).map (fun t => t.obs.reply) =
    some (some (.frameCount 4)) := by decide

/-- V-FS-3: the Bus State is answered while stopped. -/
theorem test_getBusState_stopped : (nextOf (exec .getBusState stopped)).map (fun t => t.obs.reply) =
    some (some (.busState .started)) := by decide

/-- V-FS-4: the element at position 1 and the record of a full frame. -/
theorem test_getFrame_inRange : (nextOf (exec .getFrame { mk ⟨2, 4, false⟩ true .idle true 1 0
      { bytes := [(2, 0xFF), (3, 0x01)], acks := [(3, true)], bitIndex := [], byteIndex := [(1, 2)] } with
      rd := ⟨1, 1⟩ })).map (fun t => t.obs.reply) =
    some (some (.frame ⟨0x01, true, 2⟩ ⟨[0xFF, 0x01], [false, true], 2⟩)) := by decide

/-- V-FS-5: a position out of range reads zero. -/
theorem test_getFrame_outOfRange : (nextOf (exec .getFrame { fullFrame with rd := ⟨0, 2⟩ })).map
    (fun t => t.obs.reply) = some (some (.frame ⟨0, false, 0⟩ ⟨[0xA2, 0x5A], [true, false], 2⟩)) := by decide

/-- V-FS-13. -/
theorem test_nop : exec .nop openFrame = .next openFrame := rfl

/-- 95_test_vectors.md W1, cycle 8: the start condition is seen while the clock falls on the pin. -/
theorem test_cycle_start : (nextOf (sampleCycle ⟨.high, .low, .low, false, 0, ⟨0, 0⟩⟩
    { justStarted with frontEnd := ⟨.high, .high, .high, .low, .low, .high⟩ })).map
    (fun t => (t.busState, t.primed, t.frontEnd)) =
    some (.started, true, ⟨.low, .high, .high, .low, .low, .low⟩) := by decide

/-- R168: in one cycle the clock edge steps before the data edge, and both before the command. -/
theorem test_cycle_order : (openFrame.cycleOps ⟨.high, .high, .high, true, 0b100, ⟨0, 0⟩⟩,
    ({ openFrame with frontEnd := ⟨.high, .high, .low, .high, .high, .low⟩ } : State).cycleOps
      ⟨.high, .high, .high, true, 0b100, ⟨0, 0⟩⟩) =
    ([.cmdStop], [.sclRise .high, .sdaEdge .high .high, .cmdStop]) := by decide

/-- From reset, the word placed by `withFetchWord` runs as the very next step, whatever `N` and `M` are. -/
theorem test_step_from_reset :
    (nextOf (step (State.reset.withFetchWord 8 0x60))).map (fun t => (t.capturing, t.stimuli)) = some (true, []) ∧
      ([0x00, 0x20, 0x21, 0x22, 0x23, 0x42, 0x43, 0x60, 0x80, 0xA0, 0xC0, 0xE0, 0xE1, 0xE2].all fun w =>
        (nextOf (step (State.reset.withFetchWord 8 w))).isSome) = true := by decide

theorem test_step_reserved : (match step (State.reset.withFetchWord 8 0x41) with
    | .refused (.reservedWord w why) => decide (w = 0x41 ∧ why = .lowBits)
    | _ => false) = true := by decide

/-! ### Witnesses -/

theorem openFrame_inv : BlockInv openFrame where
  params := by decide
  canonical := by decide
  inRange := ⟨by decide, by decide, by decide, by decide⟩
  activeBound := by decide
  byteBound := by decide
  bitBound := by decide
  selectedBound := by decide
  unprimed := by decide
  aboveClear := by decide
  unwrittenClear := by decide
  partialByte := by decide
  fullFrame := by decide

theorem ackDue_inv : BlockInv ackDue where
  params := by decide
  canonical := by decide
  inRange := ⟨by decide, by decide, by decide, by decide⟩
  activeBound := by decide
  byteBound := by decide
  bitBound := by decide
  selectedBound := by decide
  unprimed := by decide
  aboveClear := by decide
  unwrittenClear := by decide
  partialByte := by decide
  fullFrame := by decide

theorem fullFrame_inv : BlockInv Tests.fullFrame where
  params := by decide
  canonical := by decide
  inRange := ⟨by decide, by decide, by decide, by decide⟩
  activeBound := by decide
  byteBound := by decide
  bitBound := by decide
  selectedBound := by decide
  unprimed := by decide
  aboveClear := by decide
  unwrittenClear := by decide
  partialByte := by decide
  fullFrame := by decide

theorem lastFrame_inv : BlockInv (lastFrame false) where
  params := by decide
  canonical := by decide
  inRange := ⟨by decide, by decide, by decide, by decide⟩
  activeBound := by decide
  byteBound := by decide
  bitBound := by decide
  selectedBound := by decide
  unprimed := by decide
  aboveClear := by decide
  unwrittenClear := by decide
  partialByte := by decide
  fullFrame := by decide

theorem justStarted_inv : BlockInv justStarted where
  params := by decide
  canonical := by decide
  inRange := ⟨by decide, by decide, by decide, by decide⟩
  activeBound := by decide
  byteBound := by decide
  bitBound := by decide
  selectedBound := by decide
  unprimed := by decide
  aboveClear := by decide
  unwrittenClear := by decide
  partialByte := by decide
  fullFrame := by decide

theorem witness_DecodeThenEncodeGivesTheWord : decodeWord 0xE2 = .instr .getFrame := by decide

theorem witness_LegalWordsAreExactlyTheFourteen : (0xE2 : Byte) ∈ legalWords ∧ (0xE3 : Byte) ∉ legalWords := by decide

theorem witness_StepExecutesTheDecodedWord : ∃ s : State,
    s.stimuli = [.word 0x22 ⟨0, 0⟩] ∧ decodeWord 0x22 = .instr (.sdaEdge .high .low) :=
  ⟨{ justStarted with stimuli := [.word 0x22 ⟨0, 0⟩] }, rfl, by decide⟩

theorem witness_ReservedWordsTakeNoStep : (∃ s : State, s.stimuli = [.word 0x24 ⟨0, 0⟩] ∧
      (0x24 : Byte).extractLsb' 2 3 ≠ 0) ∧
    (∃ s : State, s.stimuli = [.word 0xE3 ⟨0, 0⟩] ∧ (0xE3 : Byte).extractLsb' 2 3 = 0) ∧
    (∃ p : Pins, p.cmdOp = 0b001) ∧ ∃ p : Pins, p.cmdOp = 0b010 :=
  ⟨⟨{ justStarted with stimuli := [.word 0x24 ⟨0, 0⟩] }, rfl, by decide⟩,
   ⟨{ justStarted with stimuli := [.word 0xE3 ⟨0, 0⟩] }, rfl, by decide⟩,
   ⟨⟨.high, .high, .high, true, 0b001, ⟨0, 0⟩⟩, rfl⟩, ⟨⟨.high, .high, .high, true, 0b010, ⟨0, 0⟩⟩, rfl⟩⟩

theorem witness_StepWithNothingToDoIsNop : openFrame.stimuli = [] := rfl

theorem witness_DataEdgeWithClockLowChangesNothing : openFrame.capturing = true := rfl

theorem witness_StopConditionReturnsToIdle : openFrame.capturing = true ∧ openFrame.busState = .started := by decide

theorem witness_FirstStartConditionPrimes :
    (justStarted.capturing = true ∧ justStarted.primed = false ∧ BlockInv justStarted) ∧
      stopped.capturing = false ∧ 1 ≤ stopped.cfg.N :=
  ⟨⟨rfl, rfl, justStarted_inv⟩, by decide⟩

theorem witness_LaterStartConditionOpensTheNextFrame : openFrame.capturing = true ∧ openFrame.primed = true ∧
    openFrame.activeIndex + 1 < openFrame.cfg.M ∧ BlockInv openFrame :=
  ⟨rfl, rfl, by decide, openFrame_inv⟩

theorem witness_OverflowingStartConditionClearsTheStore : (lastFrame false).cfg.overflowEndsStarted = false ∧
    (lastFrame false).capturing = true ∧ (lastFrame false).primed = true ∧
    (lastFrame false).cfg.M = (lastFrame false).activeIndex + 1 := by decide

theorem witness_OverflowUnderTheAlternativeReadingEndsStarted : (lastFrame true).cfg.overflowEndsStarted = true ∧
    (lastFrame true).capturing = true ∧ (lastFrame true).primed = true ∧
    (lastFrame true).cfg.M = (lastFrame true).activeIndex + 1 := by decide

theorem witness_DataHighWithClockHighInIdleChangesNothing :
    justStarted.capturing = true ∧ justStarted.busState = .idle := by decide

theorem witness_RepeatedStartIsAnyOtherStart : (BlockInv openFrame ∧ openFrame.capturing = true ∧
      openFrame.busState = .started ∧ openFrame.activeIndex + 1 < openFrame.cfg.M) ∧
    (BlockInv (lastFrame false) ∧ (lastFrame false).busState = .started ∧
      (lastFrame false).cfg.M ≤ (lastFrame false).activeIndex + 1) :=
  ⟨⟨openFrame_inv, by decide⟩, lastFrame_inv, by decide⟩

theorem witness_DecisionTableOfDataEdges :
    openFrame.capturing = true ∧ openFrame.cfg.overflowEndsStarted = false := by decide

theorem witness_DataEdgeWritesNoFrame : ∃ t, exec (.sdaEdge .high .low) openFrame = .next t ∧
    ¬openFrame.cfg.M ≤ openFrame.activeIndex + 1 := ⟨_, rfl, by decide⟩

theorem witness_OnlyStopConditionsRequestRedraw : (∃ t, exec (.sdaEdge .high .high) openFrame = .next t) ∧
    ∃ t, exec (.sclRise .low) openFrame = .next t := ⟨⟨_, rfl⟩, ⟨_, rfl⟩⟩

theorem witness_ClockInIdleChangesNothing : justStarted.capturing = true ∧ justStarted.busState = .idle := by decide

theorem witness_DataClockShiftsOneBitIn : openFrame.capturing = true ∧ openFrame.busState = .started ∧
    openFrame.byteIndexOf openFrame.activeIndex < openFrame.cfg.N ∧ openFrame.bitIndexOf openFrame.activeIndex < 8 ∧
    BlockInv openFrame :=
  ⟨rfl, rfl, by decide, by decide, openFrame_inv⟩

theorem witness_NinthClockRecordsTheAckFlag : ackDue.capturing = true ∧ ackDue.busState = .started ∧
    ackDue.byteIndexOf ackDue.activeIndex < ackDue.cfg.N ∧ ackDue.bitIndexOf ackDue.activeIndex = 8 := by decide

theorem witness_ClockOnAFullFrameChangesNothing : Tests.fullFrame.capturing = true ∧
    Tests.fullFrame.busState = .started ∧
    Tests.fullFrame.byteIndexOf Tests.fullFrame.activeIndex = Tests.fullFrame.cfg.N ∧
    Tests.fullFrame.primed = true ∧ Tests.fullFrame.activeIndex + 1 < Tests.fullFrame.cfg.M ∧ BlockInv Tests.fullFrame :=
  ⟨rfl, rfl, by decide, rfl, by decide, fullFrame_inv⟩

theorem witness_NineClocksRecordOneByte : let s : State := { justStarted with busState := .started, primed := true }
    s.capturing = true ∧ s.busState = .started ∧ s.byteIndexOf s.activeIndex < s.cfg.N ∧
      s.bitIndexOf s.activeIndex = 0 := by decide

theorem witness_PartialByteIsKeptAtStopAndRepeatedStart : (BlockInv openFrame ∧ openFrame.capturing = true ∧
      openFrame.busState = .started ∧ 1 ≤ openFrame.bitIndexOf openFrame.activeIndex ∧
      openFrame.activeIndex + 1 < openFrame.cfg.M) ∧
    (BlockInv ackDue ∧ ackDue.bitIndexOf ackDue.activeIndex = 8 ∧ ackDue.activeIndex + 1 < ackDue.cfg.M) :=
  ⟨⟨openFrame_inv, by decide⟩, ackDue_inv, by decide⟩

theorem witness_OutcomeTableOfClockEdges : (BlockInv openFrame ∧ openFrame.capturing = true) ∧
    (BlockInv ackDue ∧ ackDue.capturing = true) ∧ (BlockInv Tests.fullFrame ∧ Tests.fullFrame.capturing = true) ∧
    (BlockInv justStarted ∧ justStarted.capturing = true) :=
  ⟨⟨openFrame_inv, rfl⟩, ⟨ackDue_inv, rfl⟩, ⟨fullFrame_inv, rfl⟩, justStarted_inv, rfl⟩

theorem witness_ClockEdgeWritesOnlyTheActiveElement : ∃ t, exec (.sclRise .high) openFrame = .next t := ⟨_, rfl⟩

theorem witness_BusEventsAreGatedWhileStopped : stopped.capturing = false ∧
    ∃ p : Pins, p.rstN = .high ∧ p.cmdValid = false :=
  ⟨rfl, ⟨.high, .low, .high, false, 0, ⟨0, 0⟩⟩, rfl, rfl⟩

theorem witness_StartCommandClearsThenCaptures : stopped.capturing = false ∧ openFrame.capturing = true := by decide

theorem witness_StopCommandOnlyEndsCapturing : openFrame.capturing = true ∧ stopped.capturing = false := by decide

theorem witness_SessionHasTwoTransitions : ∃ t, exec .cmdStart stopped = .next t ∧ stopped.capturing = false ∧
    t.capturing = true := ⟨_, rfl, rfl, rfl⟩

theorem witness_CaptureStandsUntilTheNextStart : Instr.cmdStart ∉ [Instr.sclRise .low, .getFrame] ∧
    ∀ i ∈ [Instr.sclRise .low, .getFrame], i ≠ .cmdSelNext ∧ i ≠ .cmdSelPrev := by decide

theorem witness_SelectionAndDecoderAreIndependent : (∃ t, exec .cmdSelNext openFrame = .next t) ∧
    (∃ t, exec (.sdaEdge .high .low) (lastFrame false) = .next t) ∧
    (lastFrame false).selectedIndex ≤ (lastFrame false).activeIndex := ⟨⟨_, rfl⟩, ⟨_, rfl⟩, by decide⟩

theorem witness_FrameCountIsActiveIndexPlusOne : BlockInv openFrame ∧ (lastFrame false).capturing = true ∧
    (lastFrame false).primed = true ∧ (lastFrame false).cfg.M ≤ (lastFrame false).activeIndex + 1 :=
  ⟨openFrame_inv, by decide⟩

theorem witness_FrameQueryAnswersTheSelectedElement :
    (let s : State := { openFrame with rd := ⟨3, 1⟩ }; s.rd.frame < s.cfg.M ∧ s.rd.pos < s.cfg.N) ∧
    (let s : State := { openFrame with rd := ⟨4, 1⟩ }; s.cfg.M ≤ s.rd.frame) ∧
    (let s : State := { openFrame with rd := ⟨3, 2⟩ }; s.cfg.N ≤ s.rd.pos) := by decide

theorem witness_QueriesHaveNoSideEffect : ∃ t, exec .getFrame openFrame = .next t := ⟨_, rfl⟩

theorem witness_NopChangesNothing : ∃ (s : State) (p : Pins), p.rstN = .high ∧ p.cmdValid = false ∧
    s.frontEnd.sdaP = s.frontEnd.sdaS ∧ ¬(s.frontEnd.sclP = .low ∧ s.frontEnd.sclS = .high) :=
  ⟨openFrame, ⟨.high, .low, .high, false, 0, ⟨0, 0⟩⟩, by decide⟩

/-- X1, X2, X3 and X4 in turn, then a start condition that notes nothing. -/
theorem witness_ConditionsAreNotedExactlyWhenTheyHold :
    (∃ t, exec (.sdaEdge .high .low) (lastFrame false) = .next t ∧ t.obs.noted = [.capacityOverflow]) ∧
    (∃ t, exec (.sdaEdge .low .high) openFrame = .next t ∧ t.obs.noted = [.spuriousEdge]) ∧
    (∃ t, exec .cmdStart openFrame = .next t ∧ t.obs.noted = [.doubleStart]) ∧
    (∃ t, exec (.sclRise .low) Tests.fullFrame = .next t ∧ t.obs.noted = [.frameFull]) ∧
    ∃ t, exec (.sdaEdge .high .low) openFrame = .next t ∧ t.obs.noted = [] :=
  ⟨⟨_, rfl, by decide⟩, ⟨_, rfl, by decide⟩, ⟨_, rfl, by decide⟩, ⟨_, rfl, by decide⟩, ⟨_, rfl, by decide⟩⟩

theorem witness_ActiveIndexAdvancesByOneOrReturnsToZero : (∃ t, exec (.sdaEdge .high .low) openFrame = .next t ∧
      t.activeIndex ≠ openFrame.activeIndex) ∧
    (∃ t, exec (.sdaEdge .high .low) (lastFrame false) = .next t ∧ t.activeIndex ≠ (lastFrame false).activeIndex) ∧
    (∃ t, exec .cmdStart stopped = .next t ∧ t.activeIndex ≠ stopped.activeIndex) :=
  ⟨⟨_, rfl, by decide⟩, ⟨_, rfl, by decide⟩, ⟨_, rfl, by decide⟩⟩

theorem witness_ResetValuesAreThoseOfTheTable : ∃ u : State, openFrame.hardReset = u.hardReset := ⟨openFrame, rfl⟩

theorem witness_ResetPinHoldsTheBlockInReset : ∃ (s : State) (p : Pins), s.stimuli = [.cycle p] ∧ p.rstN = .low :=
  ⟨{ openFrame with stimuli := [.cycle ⟨.low, .high, .low, true, 0b011, ⟨0, 0⟩⟩] },
   ⟨.low, .high, .low, true, 0b011, ⟨0, 0⟩⟩, rfl, rfl⟩

theorem witness_OperationsOfOneCycleStepInOrder : ∃ p : Pins, p.rstN = .high :=
  ⟨⟨.high, .high, .low, true, 0b100, ⟨0, 0⟩⟩, rfl⟩

theorem witness_FrontEndSeesThePinsTwoCyclesLater : ∃ (s t : State) (p q : Pins), p.rstN = .high ∧ q.rstN = .high ∧
    s.stimuli = [.cycle p, .cycle q] ∧ RunsTo 2 s t :=
  ⟨{ justStarted with stimuli := [.cycle ⟨.high, .high, .low, false, 0, ⟨0, 0⟩⟩,
      .cycle ⟨.high, .high, .low, false, 0, ⟨0, 0⟩⟩] }, _, ⟨.high, .high, .low, false, 0, ⟨0, 0⟩⟩,
    ⟨.high, .high, .low, false, 0, ⟨0, 0⟩⟩, rfl, rfl, rfl, rfl⟩

theorem witness_ResetMeetsTheInvariants : Config.wellFormed ⟨1, 1, true⟩ = true := by decide

theorem witness_EveryStepKeepsTheInvariants : BlockInv openFrame ∧ ∃ t, step openFrame = .next t :=
  ⟨openFrame_inv, _, rfl⟩

/-- The ninth clock of the first byte needs a session, a start condition and eight clocks before it. -/
theorem witness_ReachableStatesMeetTheInvariants : Config.wellFormed ⟨2, 4, false⟩ = true ∧
    ∃ s, RunsTo 10 { State.resetOf ⟨2, 4, false⟩ with
        stimuli := [0x60, 0x22, 0x43, 0x42, 0x43, 0x42, 0x42, 0x42, 0x43, 0x42].map fun w => .word w ⟨0, 0⟩ } s ∧
      8 ≤ s.bitIndexOf s.activeIndex ∧ s.capturing = true ∧ s.busState = .started ∧ ∃ t, step s = .next t :=
  ⟨by decide, _, rfl, by decide, rfl, rfl, _, rfl⟩

theorem witness_ReadOutNeverDisturbsDecoding : openFrame.decoderPart =
    ({ openFrame with selectedIndex := 0, rd := ⟨3, 1⟩ } : State).decoderPart := rfl

theorem witness_OneStartConditionMoreThanFramesReturnsToCountOne : justStarted.capturing = true ∧ justStarted.Cleared ∧
    1 ≤ justStarted.cfg.M := ⟨rfl, ⟨rfl, rfl, rfl, rfl, rfl⟩, by decide⟩

theorem witness_SampleCycleRefinesTheTraceOfItsOperations : ∃ p : Pins, p.rstN = .high :=
  ⟨⟨.high, .high, .low, true, 0b011, ⟨0, 0⟩⟩, rfl⟩

theorem witness_CanonicalMemoriesThatReadAlikeAreEqual :
    Memory.wf (0 : Byte) [(0, 0xA2), (3, 0x5A)] ∧ Memory.wf (0 : Byte) (Memory.write 0 [(3, 0x5A)] 0 0xA2) ∧
      ∀ a, Memory.read (0 : Byte) [(0, 0xA2), (3, 0x5A)] a = Memory.read 0 (Memory.write 0 [(3, 0x5A)] 0 0xA2) a :=
  ⟨by decide, by decide, fun _ => rfl⟩

end Sys2Proof.Tests
end

section
/-! PROOFS. The values after `FS_RESET()` and after hardware reset (10_state.md, R24). -/

namespace Sys2Proof.Machine

section cleared

variable {s : State}

theorem State.Cleared.store_eq (h : s.Cleared) : s.store = FrameStore.empty := h.1

theorem State.Cleared.byteAt_eq_zero (h : s.Cleared) (i k : Nat) : s.byteAt i k = 0 := by
  rw [State.byteAt, h.store_eq]; rfl

theorem State.Cleared.ackAt_eq_false (h : s.Cleared) (i k : Nat) : s.ackAt i k = false := by
  rw [State.ackAt, h.store_eq]; rfl

theorem State.Cleared.bitIndexOf_eq_zero (h : s.Cleared) (i : Nat) : s.bitIndexOf i = 0 := by
  rw [State.bitIndexOf, h.store_eq]; rfl

theorem State.Cleared.byteIndexOf_eq_zero (h : s.Cleared) (i : Nat) : s.byteIndexOf i = 0 := by
  rw [State.byteIndexOf, h.store_eq]; rfl

/-- A cleared block reads zero at every element and every cursor. -/
theorem State.Cleared.reads_zero (h : s.Cleared) (i k : Nat) :
    s.byteAt i k = 0 ∧ s.ackAt i k = false ∧ s.bitIndexOf i = 0 ∧ s.byteIndexOf i = 0 :=
  ⟨h.byteAt_eq_zero i k, h.ackAt_eq_false i k, h.bitIndexOf_eq_zero i, h.byteIndexOf_eq_zero i⟩

end cleared

theorem State.fsReset_cleared (s : State) : s.fsReset.Cleared := ⟨rfl, rfl, rfl, rfl, rfl⟩

theorem State.hardReset_cleared (s : State) : s.hardReset.Cleared := ⟨rfl, rfl, rfl, rfl, rfl⟩

/-- The state that reset starts from is itself a state held in hardware reset, so what holds of every `hardReset` holds
of it. -/
theorem State.reset_eq_hardReset : State.reset = State.reset.hardReset := rfl

/-- Settles O44: either reset leaves the block cleared, and a cleared block reads zero everywhere. -/
theorem resetValuesAreThoseOfTheTable : Obligations.ResetValuesAreThoseOfTheTable := by
  refine ⟨fun s => ?fsReset, fun s hs => ?hardReset⟩
  case fsReset =>
    exact ⟨s.fsReset_capturing, s.fsReset_frontEnd, s.fsReset_obs, s.fsReset_cleared, s.fsReset_cleared.reads_zero⟩
  case hardReset =>
    obtain ⟨u, rfl⟩ : ∃ u : State, s = u.hardReset :=
      hs.elim (fun h => ⟨State.reset, h.trans State.reset_eq_hardReset⟩) id
    have hred : u.hardReset.obs.redraw = false := by rw [State.hardReset_obs]
    exact ⟨u.hardReset_capturing, u.hardReset_cleared, hred, u.hardReset_frontEnd, u.hardReset_cleared.reads_zero⟩

end Sys2Proof.Machine
end

section
/-! PROOFS. The decoder and the encoder are inverse to each other, so the words that decode are the legal words (R65) and
the reserved words take no step (R64). -/

namespace Sys2Proof

theorem encode_legal (i : Instr) : Laws.EncodeLegal.Statement i :=
  match i with
  | .nop => Laws.EncodeLegal.nop
  | .sdaEdge scl sda => Laws.EncodeLegal.sdaEdge scl sda
  | .sclRise sda => Laws.EncodeLegal.sclRise sda
  | .cmdStart => Laws.EncodeLegal.cmdStart
  | .cmdStop => Laws.EncodeLegal.cmdStop
  | .cmdSelNext => Laws.EncodeLegal.cmdSelNext
  | .cmdSelPrev => Laws.EncodeLegal.cmdSelPrev
  | .getFrameCount => Laws.EncodeLegal.getFrameCount
  | .getBusState => Laws.EncodeLegal.getBusState
  | .getFrame => Laws.EncodeLegal.getFrame

theorem encode_mem_legalWords (i : Instr) : encode i ∈ legalWords := by
  obtain ⟨-, hlegal, -⟩ := encode_legal i
  exact hlegal

theorem bitOfLevel_levelOfBit (b : Bool) : bitOfLevel (levelOfBit b) = (BitVec.ofBool b).setWidth 8 := by
  cases b <;> rfl

theorem getLsbD_of_wordZero {w : Byte} (hzero : wordZero w = 0) {k : Nat} (h2 : 2 ≤ k) (h5 : k < 5) :
    w.getLsbD k = false := by
  have hbit : (wordZero w).getLsbD (k - 2) = false := by rw [hzero]; exact BitVec.getLsbD_zero
  have hlt : k - 2 < 3 := by omega
  have hk : 2 + (k - 2) = k := by omega
  simpa [wordZero, hlt, hk] using hbit

/-- A word whose zero field is clear has no bit outside `opc`, `c` and `d` (R61). -/
theorem packWord_fields {w : Byte} (hzero : wordZero w = 0) :
    packWord (wordOpc w) (levelOfBit (w.getLsbD 1)) (levelOfBit (w.getLsbD 0)) = w := by
  refine BitVec.eq_of_getLsbD_eq fun k hk => ?_
  have hclear := getLsbD_of_wordZero hzero (k := k)
  interval_cases k <;> simp_all [packWord, wordOpc, bitOfLevel_levelOfBit]

theorem decodeWord_of_wordZero_ne {w : Byte} (h : wordZero w ≠ 0) : decodeWord w = .reserved .zeroField :=
  if_pos h

theorem encode_of_lowBitsClear {c d : Bool} {i j : Instr} {opc : BitVec 3} (h : lowBitsClear c d j = .instr i)
    (hj : encode j = packWord opc .low .low) : encode i = packWord opc (levelOfBit c) (levelOfBit d) := by
  cases c <;> cases d <;> cases h
  exact hj

theorem encode_of_decodeQuery {c d : Bool} {i : Instr} (h : decodeQuery c d = .instr i) :
    encode i = packWord 0b111 (levelOfBit c) (levelOfBit d) := by
  cases c <;> cases d <;> cases h <;> rfl

/-- Each legal word has one meaning: a word that decodes is the encoding of what it decodes to. -/
theorem encode_of_decodeWord {w : Byte} {i : Instr} (h : decodeWord w = .instr i) : encode i = w := by
  by_cases hzero : wordZero w = 0
  case neg => simp [decodeWord_of_wordZero_ne hzero] at h
  rw [← packWord_fields hzero]
  simp only [decodeWord, hzero, ne_eq, not_true_eq_false, if_false] at h
  generalize w.getLsbD 1 = c, w.getLsbD 0 = d, wordOpc w = opc at h ⊢
  match opc with
  | 0b000#3 => exact encode_of_lowBitsClear h rfl
  | 0b001#3 => cases h; rfl
  | 0b010#3 =>
    cases c <;> cases h
    rfl
  | 0b011#3 => exact encode_of_lowBitsClear h rfl
  | 0b100#3 => exact encode_of_lowBitsClear h rfl
  | 0b101#3 => exact encode_of_lowBitsClear h rfl
  | 0b110#3 => exact encode_of_lowBitsClear h rfl
  | 0b111#3 => exact encode_of_decodeQuery h

/-- No bit of an operation is dropped in its word. -/
@[simp] theorem decodeWord_encode (i : Instr) : decodeWord (encode i) = .instr i := by
  cases i with
  | sdaEdge scl sda => cases scl <;> cases sda <;> rfl
  | sclRise sda => cases sda <;> rfl
  | _ => rfl

theorem exists_encode_eq_of_mem_legalWords : ∀ w ∈ legalWords, ∃ i, encode i = w := by
  simp only [legalWords, List.forall_mem_cons]
  exact ⟨⟨.nop, rfl⟩, ⟨.sdaEdge .low .low, rfl⟩, ⟨.sdaEdge .low .high, rfl⟩, ⟨.sdaEdge .high .low, rfl⟩,
    ⟨.sdaEdge .high .high, rfl⟩, ⟨.sclRise .low, rfl⟩, ⟨.sclRise .high, rfl⟩, ⟨.cmdStart, rfl⟩, ⟨.cmdStop, rfl⟩,
    ⟨.cmdSelNext, rfl⟩, ⟨.cmdSelPrev, rfl⟩, ⟨.getFrameCount, rfl⟩, ⟨.getBusState, rfl⟩, ⟨.getFrame, rfl⟩,
    List.forall_mem_nil _⟩

/-- R65: the words that decode are the encodings of the operations, and these are the legal words. -/
theorem decodes_iff_mem_legalWords (w : Byte) : (∃ i, decodeWord w = .instr i) ↔ w ∈ legalWords := by
  constructor
  · rintro ⟨i, hi⟩
    rw [← encode_of_decodeWord hi]
    exact encode_mem_legalWords i
  · intro hw
    obtain ⟨i, rfl⟩ := exists_encode_eq_of_mem_legalWords w hw
    exact ⟨i, decodeWord_encode i⟩

theorem decodeWord_reserved_of_not_mem_legalWords {w : Byte} (hw : w ∉ legalWords) :
    ∃ why, decodeWord w = .reserved why := by
  cases hd : decodeWord w with
  | instr i => exact absurd ((decodes_iff_mem_legalWords w).mp ⟨i, hd⟩) hw
  | reserved why => exact ⟨why, rfl⟩

theorem mnemonic_mem_opcodeRows (i : Instr) : i.mnemonic ∈ opcodeRows.map OpRow.mnemonic := by
  cases i <;> simp [opcodeRows, Instr.mnemonic]

/-- R64 and R65: no word that R64 reserves is a legal word. -/
theorem not_reserved_of_mem_legalWords {w : Byte} (hw : w ∈ legalWords) : wordZero w = 0 ∧ reservedWord w = false := by
  obtain ⟨i, rfl⟩ := exists_encode_eq_of_mem_legalWords w hw
  obtain ⟨hzero, -, hreserved⟩ := encode_legal i
  exact ⟨hzero, hreserved⟩

/-- Settles O3: encoder and decoder are inverse to each other, and the encoder's words are the legal ones. -/
theorem legalWordsAreExactlyTheFourteen : Obligations.LegalWordsAreExactlyTheFourteen :=
  ⟨decodes_iff_mem_legalWords, rfl, mnemonic_mem_opcodeRows, by decide, rfl, by decide, rfl, rfl,
    fun _ => decodeWord_reserved_of_not_mem_legalWords⟩

namespace Machine

theorem step_word_of_not_mem_legalWords {s : State} {w : Byte} {rd : ReadSel} {rest : List Stimulus}
    (h : s.stimuli = .word w rd :: rest) (hw : w ∉ legalWords) :
    ∃ why, step s = .refused (.reservedWord w why) := by
  obtain ⟨why, hwhy⟩ := decodeWord_reserved_of_not_mem_legalWords hw
  exact ⟨why, by rw [step_word s h, wordStep, hwhy]⟩

theorem commandOfPins_eq_none {p : Pins} (h : commandOfPort p.cmdOp = none) : commandOfPins p = none := by
  rw [commandOfPins, h, ite_self]

/-- Settles O7: none of the words R64 lists is a legal word, and neither bus event is on the command port. -/
theorem reservedWordsTakeNoStep : Obligations.ReservedWordsTakeNoStep := by
  refine ⟨fun s w rd rest hs hreserved => step_word_of_not_mem_legalWords hs fun hlegal => ?word, fun p hp => ?port⟩
  case word =>
    obtain ⟨hzero, hfalse⟩ := not_reserved_of_mem_legalWords hlegal
    rcases hreserved with hne | hlow
    · exact hne hzero
    · have htrue : reservedWord w = true := Bool.or_eq_true_iff.mpr (.inr (List.contains_iff_mem.mpr hlow))
      exact Bool.false_ne_true (hfalse.symm.trans htrue)
  case port =>
    apply commandOfPins_eq_none
    rcases hp with hp | hp <;> rw [hp] <;> rfl

end Machine

end Sys2Proof
end

section
/-! PROOFS. The Bus State Machine (40_bus_state_machine.md): what `SDA_EDGE` answers while capturing, one rule per row of
R91, and the statements about it. -/

namespace Sys2Proof.Machine

section rules

variable {s : State}

/-! ### The outcomes of a start condition -/

theorem State.startCondition_priming (hp : s.primed = false) :
    s.startCondition = { s with busState := .started, primed := true } := by
  rw [State.startCondition, s.startKind_priming hp]

theorem State.startCondition_nextFrame (hp : s.primed = true) (hM : s.activeIndex + 1 < s.cfg.M) :
    s.startCondition = { s with busState := .started, activeIndex := s.activeIndex + 1 } := by
  rw [State.startCondition, s.startKind_nextFrame hp hM]

/-- R86, the spec's reading of D6: `FS_RESET()` is the last action. -/
theorem State.startCondition_overflow (hov : s.cfg.overflowEndsStarted = false) (hp : s.primed = true)
    (hM : s.cfg.M ≤ s.activeIndex + 1) : s.startCondition = (s.note .capacityOverflow).fsReset := by
  rw [State.startCondition, s.startKind_overflow hp hM]
  simp [State.overflowStart, hov]

/-! ### What `exec` answers while capturing -/

section capturing

variable (hcap : s.capturing = true)
include hcap

theorem exec_sdaEdge_capturing (scl sda : Level) : exec (.sdaEdge scl sda) s = .next (s.dataEdge scl sda) := by
  rw [exec_sdaEdge, if_pos hcap]

theorem exec_spuriousEdge (sda : Level) : exec (.sdaEdge .low sda) s = .next (s.note .spuriousEdge) := by
  rw [exec_sdaEdge_capturing hcap, State.dataEdge, edgeKind_clockLow]

theorem exec_stopCondition (hb : s.busState = .started) : exec (.sdaEdge .high .high) s = .next s.stopCondition := by
  rw [exec_sdaEdge_capturing hcap, State.dataEdge, hb, edgeKind_stop]

theorem exec_dataHigh_idle (hb : s.busState = .idle) : exec (.sdaEdge .high .high) s = .next s := by
  rw [exec_sdaEdge_capturing hcap, State.dataEdge, hb, edgeKind_highIdle]

theorem exec_startCondition : exec (.sdaEdge .high .low) s = .next s.startCondition := by
  rw [exec_sdaEdge_capturing hcap, State.dataEdge, edgeKind_start]

theorem exec_sclRise_idle (d : Level) (hb : s.busState = .idle) : exec (.sclRise d) s = .next s := by
  rw [exec_sclRise, if_pos hcap, State.clockRise, s.clockKind_ignored hb]

theorem exec_sclRise_dataBit (d : Level) (hb : s.busState = .started) (hN : s.activeByte < s.cfg.N)
    (h8 : s.activeBit < 8) : exec (.sclRise d) s = .next (s.takeDataBit d) := by
  rw [exec_sclRise, if_pos hcap, State.clockRise, s.clockKind_dataBit hb hN h8]

end capturing

theorem exec_cmdStart_stopped (hcap : s.capturing = false) :
    exec .cmdStart s = .next { s.fsReset with capturing := true } := by
  rw [exec_cmdStart, hcap]; rfl

end rules

/-! ### Rows of `SDA_EDGE` that change no state of the block -/

/-- Settles O10: with the clock low the edge is spurious, and X2 is noted. -/
theorem dataEdgeWithClockLowChangesNothing : Obligations.DataEdgeWithClockLowChangesNothing :=
  fun _ sda hcap => exec_spuriousEdge hcap sda

/-- Settles O16: in `Idle` no test of R80 matches a data line that reads high. -/
theorem dataHighWithClockHighInIdleChangesNothing : Obligations.DataHighWithClockHighInIdleChangesNothing :=
  fun _ hcap hb => exec_dataHigh_idle hcap hb

/-! ### Start conditions -/

/-- The state after `CMD_START` and one start condition: the block is cleared, captures, and is `Started` and primed. -/
def State.sessionStarted (s : State) : State :=
  { s.fsReset with capturing := true, busState := .started, primed := true }

theorem execAll_start_sessionStarted {s : State} (hcap : s.capturing = false) (is : List Instr) :
    execAll (.cmdStart :: .sdaEdge .high .low :: is) s = execAll is s.sessionStarted := by
  have hstart : exec (.sdaEdge .high .low) { s.fsReset with capturing := true } = .next s.sessionStarted := by
    rw [exec_startCondition rfl, State.startCondition_priming rfl]; rfl
  rw [execAll_cons_next s (exec_cmdStart_stopped hcap), execAll_cons_next _ hstart]

/-- The first clock of a session puts its level into bit 0 of element `(0, 0)`. -/
theorem State.sessionStarted_takeDataBit (s : State) (d : Level) :
    let t := s.sessionStarted.takeDataBit d
    t.activeIndex = 0 ∧ t.byteAt 0 0 = bitOfLevel d ∧ t.bitIndexOf 0 = 1 ∧ t.byteIndexOf 0 = 0 := by
  refine ⟨rfl, ?byte, ?bit, rfl⟩
  case byte =>
    calc (s.sessionStarted.takeDataBit d).byteAt 0 0
        = shiftIn 0 d := s.sessionStarted.setByte_byteAt_same 0 0 _
      _ = bitOfLevel d := by cases d <;> rfl
  case bit => exact State.setBitIndex_bitIndexOf _ 0 1 0

/-- Settles O12: the priming start condition, R20 item 5, and the first clock of a session. -/
theorem firstStartConditionPrimes : Obligations.FirstStartConditionPrimes := by
  refine ⟨fun s hcap hp => ?priming, fun s hinv hp => (hinv.unprimed hp).2, fun s d hcap hN => ?firstClock⟩
  case priming => rw [exec_startCondition hcap, State.startCondition_priming hp]
  case firstClock =>
    have hclock : exec (.sclRise d) s.sessionStarted = .next (s.sessionStarted.takeDataBit d) :=
      exec_sclRise_dataBit rfl d rfl hN (Nat.zero_lt_succ 7)
    refine ⟨_, ?_, s.sessionStarted_takeDataBit d⟩
    rw [execAll_start_sessionStarted hcap, execAll_cons_next _ hclock, execAll_nil]

/-- Settles O13: the frame above `activeIndex` is clear by R20 item 6. -/
theorem laterStartConditionOpensTheNextFrame : Obligations.LaterStartConditionOpensTheNextFrame := by
  intro s hcap hp hM
  refine ⟨?_, fun hinv => hinv.aboveClear _ hM (Nat.lt_succ_self _)⟩
  rw [exec_startCondition hcap, State.startCondition_nextFrame hp hM]

/-- Settles O14: the overflow ends in the state `FS_RESET()` leaves, which reads zero everywhere and is `Idle` and not
primed. -/
theorem overflowingStartConditionClearsTheStore : Obligations.OverflowingStartConditionClearsTheStore := by
  intro s hov hcap hp hM t
  have htcap : t.capturing = true := hcap
  refine ⟨?overflow, (s.note .capacityOverflow).fsReset_cleared.reads_zero,
    fun d => exec_sclRise_idle htcap d rfl, exec_dataHigh_idle htcap rfl, ?priming⟩
  case overflow => rw [exec_startCondition hcap, State.startCondition_overflow hov hp hM]; rfl
  case priming => rw [exec_startCondition htcap, State.startCondition_priming rfl]

/-- R20 item 5: `Started` is reached only by a start condition, and the first of them primes. -/
theorem BlockInv.primed_of_started {s : State} (hinv : BlockInv s) (hb : s.busState = .started) : s.primed = true := by
  by_contra hp
  have hidle := (hinv.unprimed (Bool.eq_false_of_not_eq_true hp)).1
  exact absurd (hb.symm.trans hidle) (by decide)

/-- Settles O17: a block that is `Started` is primed, so R85 or R86 applies. -/
theorem repeatedStartIsAnyOtherStart : Obligations.RepeatedStartIsAnyOtherStart := by
  intro s hinv hcap hb
  have hp : s.primed = true := hinv.primed_of_started hb
  refine ⟨hp, fun hM => ?nextFrame, fun hM hov => ?overflow⟩
  case nextFrame => rw [exec_startCondition hcap, State.startCondition_nextFrame hp hM, ← hb]
  case overflow =>
    refine ⟨_, exec_startCondition hcap, ?_⟩
    rw [State.startCondition_overflow hov hp hM]
    exact State.fsReset_cleared _

/-! ### The decision table -/

/-- Settles O18: the rows of R91 are the four outcomes of the edge test, the start condition in its three ways. -/
theorem decisionTableOfDataEdges : Obligations.DecisionTableOfDataEdges := by
  intro s scl sda hcap hov
  refine ⟨_, exec_sdaEdge_capturing hcap scl sda, ?_⟩
  obtain ⟨rfl, ht⟩ | ⟨rfl, rfl, hb, ht⟩ | ⟨rfl, rfl, ht⟩ | ⟨rfl, rfl, hb, ht⟩ := s.dataEdge_cases scl sda
  · simp [ht]
  · simp [ht, hb, State.stopCondition]
  · rw [ht]
    by_cases hp : s.primed = true
    · by_cases hM : s.cfg.M ≤ s.activeIndex + 1
      · simp [State.startCondition_overflow hov hp hM, hp, hM]
      · simp [State.startCondition_nextFrame hp (Nat.lt_of_not_le hM), hp, hM]
    · rw [Bool.not_eq_true] at hp
      simp [State.startCondition_priming hp, hp]
  · simp [ht, hb]

/-! ### Redraw -/

/-- The step from `s` to `t` pulses no redraw (R89, R171). -/
def SameRedraw (s t : State) : Prop := t.obs.redraw = s.obs.redraw ∧ t.obs.redraws = s.obs.redraws

theorem sameRedraw_of_obs_eq {s t : State} (h : t.obs = s.obs) : SameRedraw s t := by simp [SameRedraw, h]

theorem State.note_sameRedraw (s : State) (x : Condition) : SameRedraw s (s.note x) := ⟨rfl, rfl⟩

theorem State.answer_sameRedraw (s : State) (r : Reply) : SameRedraw s (s.answer r) := ⟨rfl, rfl⟩

theorem State.startCondition_sameRedraw (s : State) : SameRedraw s s.startCondition := by
  obtain ⟨-, ht⟩ | ⟨-, -, ht⟩ | ⟨-, -, ht⟩ := s.startCondition_cases
  · exact sameRedraw_of_obs_eq (by rw [ht])
  · exact sameRedraw_of_obs_eq (by rw [ht])
  · rw [ht, State.overflowStart]
    split <;> exact ⟨rfl, rfl⟩

theorem State.clockRise_sameRedraw (s : State) (d : Level) : SameRedraw s (s.clockRise d) := by
  obtain ⟨-, ht⟩ | ⟨-, -, ht⟩ | ⟨-, -, -, ht⟩ | ⟨-, -, -, ht⟩ := s.clockRise_cases d <;> rw [ht] <;> exact ⟨rfl, rfl⟩

/-- Of the data-line edges only a stop condition pulses redraw. -/
theorem State.dataEdge_sameRedraw (s : State) {scl sda : Level}
    (h : ¬(scl = .high ∧ sda = .high ∧ s.busState = .started)) : SameRedraw s (s.dataEdge scl sda) := by
  obtain ⟨-, ht⟩ | ⟨hc, hd, hb, -⟩ | ⟨-, -, ht⟩ | ⟨-, -, -, ht⟩ := s.dataEdge_cases scl sda
  · exact ht ▸ s.note_sameRedraw _
  · exact absurd ⟨hc, hd, hb⟩ h
  · exact ht ▸ s.startCondition_sameRedraw
  · exact sameRedraw_of_obs_eq (by rw [ht])

/-- R89: no operation and no outcome but the stop condition pulses redraw. -/
theorem exec_sameRedraw {i : Instr} {s t : State} (h : exec i s = .next t)
    (hstop : ¬(i = .sdaEdge .high .high ∧ s.capturing = true ∧ s.busState = .started)) : SameRedraw s t := by
  cases i with
  | nop => cases h; exact ⟨rfl, rfl⟩
  | sdaEdge scl sda =>
    cases h
    split
    · next hcap =>
      exact s.dataEdge_sameRedraw fun ⟨hc, hd, hb⟩ => hstop ⟨by rw [hc, hd], hcap, hb⟩
    · exact ⟨rfl, rfl⟩
  | sclRise d =>
    cases h
    split
    · exact s.clockRise_sameRedraw d
    · exact ⟨rfl, rfl⟩
  | cmdStart => cases h; split <;> exact ⟨rfl, rfl⟩
  | cmdStop => cases h; split <;> exact ⟨rfl, rfl⟩
  | cmdSelNext => cases h; exact ⟨rfl, rfl⟩
  | cmdSelPrev => cases h; exact ⟨rfl, rfl⟩
  | getFrameCount => cases h; exact s.answer_sameRedraw _
  | getBusState => cases h; exact s.answer_sameRedraw _
  | getFrame => cases h; exact s.answer_sameRedraw _

/-- Settles O20: a stop condition pulses redraw once, and every other operation and outcome leaves it as it was. -/
theorem onlyStopConditionsRequestRedraw : Obligations.OnlyStopConditionsRequestRedraw := by
  intro i s t h
  split
  · next hstop =>
    obtain ⟨rfl, hcap, hb⟩ := hstop
    rw [exec_stopCondition hcap hb] at h
    cases h
    exact ⟨rfl, rfl⟩
  · next hstop => exact exec_sameRedraw h hstop

end Sys2Proof.Machine
end

section
/-! PROOFS. The Bit/Byte Assembler (41_bit_byte_assembler.md): what the data bit and the ack bit write, the fold of
several data bits into one byte, and the statements about `SCL_RISE`. -/

namespace Sys2Proof.Machine

/-! ### The operand level as a bit -/

theorem ackOfLevel_eq_decide (d : Level) : ackOfLevel d = decide (d = .low) := by cases d <;> rfl

/-- R102 writes the new byte as `{old[6:0], sda}`. -/
theorem shiftIn_eq_append (b : Byte) (d : Level) :
    shiftIn b d = b.extractLsb' 0 7 ++ (match d with | .high => 1#1 | .low => 0#1) := by
  revert b
  cases d <;> decide

/-- The level shifted in last is the lowest bit, whatever the byte held before (R43). -/
theorem foldl_shiftIn_getLsbD (b : Byte) (ds : List Level) {n : Nat} (hn : n < ds.length) (h8 : n < 8) :
    (ds.foldl shiftIn b).getLsbD n = (ds.reverse[n]? == some .high) := by
  induction ds using List.reverseRecOn generalizing n with
  | nil => exact absurd hn (Nat.not_lt_zero n)
  | append_singleton ds d ih =>
    rw [List.foldl_append, List.foldl_cons, List.foldl_nil, shiftIn_getLsbD, List.reverse_append]
    cases n with
    | zero => cases d <;> rfl
    | succ n =>
      rw [List.length_append, List.length_singleton] at hn
      have hprev := ih (n := n) (by omega) (by omega)
      simp [h8, hprev]

/-- Eight levels fill the byte: bit `n` is the `n`-th level from the last. -/
theorem foldl_shiftIn_getLsbD_of_length_eq (b : Byte) {ds : List Level} (hlen : ds.length = 8) (n : Nat) :
    (ds.foldl shiftIn b).getLsbD n = (ds.reverse[n]? == some .high) := by
  by_cases hn : n < 8
  · exact foldl_shiftIn_getLsbD b ds (by omega) hn
  · have hlast : ds.reverse.length ≤ n := by rw [List.length_reverse]; omega
    rw [BitVec.getLsbD_of_ge _ n (by omega), List.getElem?_eq_none hlast]
    rfl

/-! ### What a clock writes in the Frame Store -/

/-- The store of `t` reads as that of `s`, the element under assembly in `s` and the cursors of its active frame apart
(R46). -/
structure WritesOnlyActive (s t : State) : Prop where
  elements : ∀ x, x ≠ s.elementKey s.activeIndex s.activeByte →
    Memory.read 0 t.store.bytes x = Memory.read 0 s.store.bytes x ∧
    Memory.read false t.store.acks x = Memory.read false s.store.acks x
  cursors : ∀ j, j ≠ s.activeIndex → t.bitIndexOf j = s.bitIndexOf j ∧ t.byteIndexOf j = s.byteIndexOf j

theorem WritesOnlyActive.of_store_eq {s t : State} (h : t.store = s.store) : WritesOnlyActive s t where
  elements x _ := by simp [h]
  cursors j _ := by simp [State.bitIndexOf, State.byteIndexOf, h]

/-- As long as the element under assembly stays the same, a second write adds nothing to what may differ. -/
theorem WritesOnlyActive.trans {s t u : State} (hst : WritesOnlyActive s t) (htu : WritesOnlyActive t u)
    (hkey : t.elementKey t.activeIndex t.activeByte = s.elementKey s.activeIndex s.activeByte)
    (hactive : t.activeIndex = s.activeIndex) : WritesOnlyActive s u where
  elements x hx := by
    obtain ⟨hbyte, hack⟩ := hst.elements x hx
    obtain ⟨hbyte', hack'⟩ := htu.elements x (by rwa [hkey])
    exact ⟨hbyte'.trans hbyte, hack'.trans hack⟩
  cursors j hj := by
    obtain ⟨hbit, hbyte⟩ := hst.cursors j hj
    obtain ⟨hbit', hbyte'⟩ := htu.cursors j (by rwa [hactive])
    exact ⟨hbit'.trans hbit, hbyte'.trans hbyte⟩

section writes

variable (s : State) (d : Level)

theorem State.takeDataBit_byteAt : (s.takeDataBit d).byteAt s.activeIndex s.activeByte =
    shiftIn (s.byteAt s.activeIndex s.activeByte) d := by
  rw [State.takeDataBit, State.setBitIndex_byteAt, State.setByte_byteAt_same]

theorem State.takeDataBit_bitIndexOf (j : Nat) : (s.takeDataBit d).bitIndexOf j =
    if j = s.activeIndex then s.activeBit + 1 else s.bitIndexOf j := by
  rw [State.takeDataBit, State.setBitIndex_bitIndexOf, State.setByte_bitIndexOf]

theorem State.takeDataBit_activeBit : (s.takeDataBit d).activeBit = s.activeBit + 1 :=
  (s.takeDataBit_bitIndexOf d s.activeIndex).trans (if_pos rfl)

theorem State.takeDataBit_writesOnlyActive : WritesOnlyActive s (s.takeDataBit d) where
  elements _ hx := ⟨Memory.read_write_other 0 s.store.bytes _ hx, rfl⟩
  cursors j hj := ⟨by rw [State.takeDataBit_bitIndexOf, if_neg hj], rfl⟩

theorem State.takeAckBit_ackAt : (s.takeAckBit d).ackAt s.activeIndex s.activeByte = ackOfLevel d := by
  rw [State.takeAckBit, State.setBitIndex_ackAt, State.setByteIndex_ackAt, State.setAck_ackAt_same]

theorem State.takeAckBit_bitIndexOf (j : Nat) : (s.takeAckBit d).bitIndexOf j =
    if j = s.activeIndex then 0 else s.bitIndexOf j := by
  rw [State.takeAckBit, State.setBitIndex_bitIndexOf, State.setByteIndex_bitIndexOf, State.setAck_bitIndexOf]

theorem State.takeAckBit_byteIndexOf (j : Nat) : (s.takeAckBit d).byteIndexOf j =
    if j = s.activeIndex then s.activeByte + 1 else s.byteIndexOf j := by
  rw [State.takeAckBit, State.setBitIndex_byteIndexOf, State.setByteIndex_byteIndexOf, State.setAck_byteIndexOf]

theorem State.takeAckBit_writesOnlyActive : WritesOnlyActive s (s.takeAckBit d) where
  elements _ hx := ⟨rfl, Memory.read_write_other false s.store.acks _ hx⟩
  cursors j hj := by
    rw [State.takeAckBit_bitIndexOf, State.takeAckBit_byteIndexOf, if_neg hj, if_neg hj]
    exact ⟨rfl, rfl⟩

end writes

section exec

variable {s : State} (hcap : s.capturing = true) (hb : s.busState = .started) (d : Level)
include hcap hb

theorem exec_sclRise_full (hN : s.cfg.N ≤ s.activeByte) : exec (.sclRise d) s = .next (s.note .frameFull) := by
  rw [exec_sclRise, if_pos hcap, State.clockRise, s.clockKind_full hb hN]

theorem exec_sclRise_ackBit (hN : s.activeByte < s.cfg.N) (h8 : 8 ≤ s.activeBit) :
    exec (.sclRise d) s = .next (s.takeAckBit d) := by
  rw [exec_sclRise, if_pos hcap, State.clockRise, s.clockKind_ackBit hb hN h8]

end exec

/-! ### Several data bits in a row -/

/-- The state after the data bits `ds`, the first of them first. -/
def State.takeDataBits (s : State) : List Level → State
  | [] => s
  | d :: ds => (s.takeDataBit d).takeDataBits ds

section dataBits

variable (s : State) (ds : List Level)

theorem State.takeDataBits_outside : { s.takeDataBits ds with store := s.store } = s := by
  induction ds generalizing s with
  | nil => rfl
  | cons d ds ih => exact congrArg (fun t : State => { t with store := s.store }) (ih (s.takeDataBit d))

@[simp] theorem State.takeDataBits_cfg : (s.takeDataBits ds).cfg = s.cfg :=
  (congrArg State.cfg (s.takeDataBits_outside ds) :)

@[simp] theorem State.takeDataBits_capturing : (s.takeDataBits ds).capturing = s.capturing :=
  (congrArg State.capturing (s.takeDataBits_outside ds) :)

@[simp] theorem State.takeDataBits_busState : (s.takeDataBits ds).busState = s.busState :=
  (congrArg State.busState (s.takeDataBits_outside ds) :)

@[simp] theorem State.takeDataBits_activeIndex : (s.takeDataBits ds).activeIndex = s.activeIndex :=
  (congrArg State.activeIndex (s.takeDataBits_outside ds) :)

@[simp] theorem State.takeDataBits_elementKey (i k : Nat) : (s.takeDataBits ds).elementKey i k = s.elementKey i k := by
  simp only [State.elementKey, State.takeDataBits_cfg]

@[simp] theorem State.takeDataBits_activeByte : (s.takeDataBits ds).activeByte = s.activeByte := by
  induction ds generalizing s with
  | nil => rfl
  | cons d ds ih => exact ih (s.takeDataBit d)

theorem State.takeDataBits_activeBit : (s.takeDataBits ds).activeBit = s.activeBit + ds.length := by
  induction ds generalizing s with
  | nil => rfl
  | cons d ds ih =>
    rw [State.takeDataBits, ih, State.takeDataBit_activeBit, List.length_cons]
    omega

theorem State.takeDataBits_byteAt : (s.takeDataBits ds).byteAt s.activeIndex s.activeByte =
    ds.foldl shiftIn (s.byteAt s.activeIndex s.activeByte) := by
  induction ds generalizing s with
  | nil => rfl
  | cons d ds ih =>
    rw [List.foldl_cons, ← State.takeDataBit_byteAt]
    exact ih (s.takeDataBit d)

theorem State.takeDataBits_writesOnlyActive : WritesOnlyActive s (s.takeDataBits ds) := by
  induction ds generalizing s with
  | nil => exact .of_store_eq rfl
  | cons d ds ih => exact (s.takeDataBit_writesOnlyActive d).trans (ih (s.takeDataBit d)) rfl rfl

/-- Clocks that leave `bitIndex` at 8 at most are all data bits. -/
theorem execAll_sclRise_dataBits {s : State} {ds : List Level} (hcap : s.capturing = true) (hb : s.busState = .started)
    (hN : s.activeByte < s.cfg.N) (h8 : s.activeBit + ds.length ≤ 8) (is : List Instr) :
    execAll (ds.map .sclRise ++ is) s = execAll is (s.takeDataBits ds) := by
  induction ds generalizing s with
  | nil => rfl
  | cons d ds ih =>
    rw [List.length_cons] at h8
    have hbit := s.takeDataBit_activeBit d
    rw [List.map_cons, List.cons_append, execAll_cons_next s (exec_sclRise_dataBit hcap d hb hN (by omega))]
    exact ih (s := s.takeDataBit d) hcap hb hN (by omega)

end dataBits

/-! ### A whole byte -/

/-- The state after the data bits `ds` of a byte and its ack bit `a`. -/
def State.takeByte (s : State) (ds : List Level) (a : Level) : State := (s.takeDataBits ds).takeAckBit a

section wholeByte

variable (s : State) (ds : List Level) (a : Level)

theorem State.takeByte_outside : { s.takeByte ds a with store := s.store } = s := s.takeDataBits_outside ds

theorem State.takeByte_writesOnlyActive : WritesOnlyActive s (s.takeByte ds a) :=
  (s.takeDataBits_writesOnlyActive ds).trans (State.takeAckBit_writesOnlyActive _ a) (by simp) (by simp)

theorem State.takeByte_byteAt : (s.takeByte ds a).byteAt s.activeIndex s.activeByte =
    ds.foldl shiftIn (s.byteAt s.activeIndex s.activeByte) := s.takeDataBits_byteAt ds

theorem State.takeByte_ackAt : (s.takeByte ds a).ackAt s.activeIndex s.activeByte = ackOfLevel a := by
  have hack := (s.takeDataBits ds).takeAckBit_ackAt a
  rwa [State.takeDataBits_activeIndex, State.takeDataBits_activeByte] at hack

theorem State.takeByte_byteIndexOf_active : (s.takeByte ds a).byteIndexOf s.activeIndex = s.activeByte + 1 := by
  simp [State.takeByte, State.takeAckBit_byteIndexOf]

theorem State.takeByte_bitIndexOf_active : (s.takeByte ds a).bitIndexOf s.activeIndex = 0 := by
  simp [State.takeByte, State.takeAckBit_bitIndexOf]

variable {s ds}

/-- R105: from `bitIndex = 0`, eight clocks are data bits and the ninth is their ack bit. -/
theorem execAll_sclRise_byte (hcap : s.capturing = true) (hb : s.busState = .started) (hN : s.activeByte < s.cfg.N)
    (h0 : s.activeBit = 0) (hlen : ds.length = 8) :
    execAll (ds.map .sclRise ++ [.sclRise a]) s = .next (s.takeByte ds a) := by
  have hninth : exec (.sclRise a) (s.takeDataBits ds) = .next (s.takeByte ds a) :=
    exec_sclRise_ackBit (by simpa) (by simpa) a (by simpa) (by rw [State.takeDataBits_activeBit]; omega)
  rw [execAll_sclRise_dataBits hcap hb hN (by omega), execAll_cons_next _ hninth, execAll_nil]

end wholeByte

/-! ### Any clock -/

theorem State.clockRise_writesOnlyActive (s : State) (d : Level) : WritesOnlyActive s (s.clockRise d) := by
  obtain ⟨-, ht⟩ | ⟨-, -, ht⟩ | ⟨-, -, -, ht⟩ | ⟨-, -, -, ht⟩ := s.clockRise_cases d
  · exact .of_store_eq (by rw [ht])
  · exact .of_store_eq (by rw [ht, State.note_store])
  · exact ht ▸ s.takeDataBit_writesOnlyActive d
  · exact ht ▸ s.takeAckBit_writesOnlyActive d

theorem State.clockRise_outside (s : State) (d : Level) :
    { s.clockRise d with store := s.store, obs := s.obs } = s := by
  obtain ⟨-, ht⟩ | ⟨-, -, ht⟩ | ⟨-, -, -, ht⟩ | ⟨-, -, -, ht⟩ := s.clockRise_cases d <;> rw [ht] <;> rfl

/-! ### The byte under assembly where the invariants hold -/

section invariant

variable {s : State} (hinv : BlockInv s)
include hinv

/-- R20 item 9: a frame that holds a partial byte is not full. -/
theorem BlockInv.activeByte_lt (hbits : 1 ≤ s.activeBit) : s.activeByte < s.cfg.N := by
  have hle : s.activeByte ≤ s.cfg.N := hinv.byteBound s.activeIndex hinv.activeBound
  have hfull : s.activeByte = s.cfg.N → s.activeBit = 0 := hinv.fullFrame s.activeIndex hinv.activeBound
  by_contra hlt
  have := hfull (by omega)
  omega

/-- R20 item 8: before the eighth data bit the byte is below 128. -/
theorem BlockInv.activeByte_getLsbD_seven (hN : s.activeByte < s.cfg.N) (h8 : s.activeBit < 8) :
    (s.byteAt s.activeIndex s.activeByte).getLsbD 7 = false := by
  apply Nat.testBit_lt_two_pow
  calc (s.byteAt s.activeIndex s.activeByte).toNat
      < 2 ^ s.activeBit := hinv.partialByte s.activeIndex hinv.activeBound hN
    _ ≤ 2 ^ 7 := Nat.pow_le_pow_right (by decide) (by omega)

/-- R107: a partial byte in a frame whose contents stand is below `2^bitIndex`, has ack flag 0, and is not captured. -/
theorem BlockInv.partialByte_kept (hbits : 1 ≤ s.activeBit) {t : State} (hsame : SameFrame s t s.activeIndex) :
    ¬t.Captured s.activeIndex s.activeByte ∧ t.ackAt s.activeIndex s.activeByte = false ∧
      (t.byteAt s.activeIndex s.activeByte).toNat < 2 ^ t.bitIndexOf s.activeIndex ∧
      t.bitIndexOf s.activeIndex ≤ 8 := by
  have hN : s.activeByte < s.cfg.N := hinv.activeByte_lt hbits
  obtain ⟨helements, hbit, hcount⟩ := hsame
  obtain ⟨hbyte, hack⟩ := helements s.activeByte hN
  obtain ⟨hclear, -⟩ := hinv.unwrittenClear s.activeIndex hinv.activeBound s.activeByte hN
  rw [hbyte, hack, hbit]
  refine ⟨fun ⟨_, hcaptured⟩ => ?_, hclear le_rfl, hinv.partialByte s.activeIndex hinv.activeBound hN,
    hinv.bitBound s.activeIndex hinv.activeBound⟩
  rw [hcount] at hcaptured
  exact Nat.lt_irrefl _ hcaptured

end invariant

theorem sameFrame_of_store_eq {s t : State} (hstore : t.store = s.store) (hcfg : t.cfg = s.cfg) (i : Nat) :
    SameFrame s t i := by
  simp [SameFrame, State.byteAt, State.ackAt, State.bitIndexOf, State.byteIndexOf, State.elementKey, hstore, hcfg]

/-! ### The statements about one clock -/

/-- Settles O21: the first row of R109. -/
theorem clockInIdleChangesNothing : Obligations.ClockInIdleChangesNothing :=
  fun _ d hcap hb => exec_sclRise_idle hcap d hb

/-- Settles O22: the step is the data bit of R102, and R20 item 8 bounds the byte it shifts. -/
theorem dataClockShiftsOneBitIn : Obligations.DataClockShiftsOneBitIn := by
  intro s d hcap hb hN h8 f k
  have hwrites := s.takeDataBit_writesOnlyActive d
  refine ⟨⟨s.takeDataBit d, exec_sclRise_dataBit hcap d hb hN h8, ?byte, s.takeDataBit_activeBit d,
    fun a ha => (hwrites.elements a ha).1, fun j hj => (hwrites.cursors j hj).1, rfl, rfl,
    s.takeDataBit_outside d⟩, fun hinv => hinv.activeByte_getLsbD_seven hN h8⟩
  case byte => exact (s.takeDataBit_byteAt d).trans (shiftIn_eq_append _ d)

/-- Settles O23: the step is the ack bit of R103. -/
theorem ninthClockRecordsTheAckFlag : Obligations.NinthClockRecordsTheAckFlag := by
  intro s d hcap hb hN h8 f k
  have hwrites := s.takeAckBit_writesOnlyActive d
  refine ⟨s.takeAckBit d, exec_sclRise_ackBit hcap hb d hN h8.ge, ?ack, ?count, ?bit,
    fun a ha => (hwrites.elements a ha).2, hwrites.cursors, rfl, s.takeAckBit_outside d⟩
  case ack => exact (s.takeAckBit_ackAt d).trans (ackOfLevel_eq_decide d)
  case count => exact (s.takeAckBit_byteIndexOf d f).trans (if_pos rfl)
  case bit => exact (s.takeAckBit_bitIndexOf d f).trans (if_pos rfl)

/-- Settles O24: the next state differs in the note of X4 only, so it is `Started` and its data-line edges are recognised
as before. -/
theorem clockOnAFullFrameChangesNothing : Obligations.ClockOnAFullFrameChangesNothing := by
  intro s d hcap hb hN t
  have htcap : t.capturing = true := hcap
  refine ⟨exec_sclRise_full hcap hb d hN.ge, fun hinv => hinv.fullFrame s.activeIndex hinv.activeBound hN,
    ⟨_, exec_stopCondition htcap hb, rfl⟩, fun hp hM => ⟨_, exec_startCondition htcap, ?_⟩⟩
  rw [State.startCondition_nextFrame (s := t) hp hM]

/-- Settles O25: the nine clocks record one byte, and eight data bits fill it. -/
theorem nineClocksRecordOneByte : Obligations.NineClocksRecordOneByte := by
  intro s b7 b6 b5 b4 b3 b2 b1 b0 a hcap hb hN h0 f k
  refine ⟨_, execAll_sclRise_byte (ds := [b7, b6, b5, b4, b3, b2, b1, b0]) a hcap hb hN h0 rfl, fun n => ?byte,
    (s.takeByte_ackAt _ a).trans (ackOfLevel_eq_decide a), s.takeByte_byteIndexOf_active _ a,
    s.takeByte_bitIndexOf_active _ a, (s.takeByte_writesOnlyActive _ a).elements, s.takeByte_outside _ a⟩
  case byte =>
    exact (congrArg (BitVec.getLsbD · n) (s.takeByte_byteAt _ a)).trans (foldl_shiftIn_getLsbD_of_length_eq _ rfl n)

/-- Settles O26: neither condition writes the store, so the frame keeps what R20 says of a partial byte. -/
theorem partialByteIsKeptAtStopAndRepeatedStart : Obligations.PartialByteIsKeptAtStopAndRepeatedStart := by
  intro s hinv hcap hb hbits f k kept
  have kept_of_store_eq {t : State} (hstore : t.store = s.store) (hcfg : t.cfg = s.cfg) : kept t :=
    have hsame : SameFrame s t f := sameFrame_of_store_eq hstore hcfg f
    ⟨hsame, hinv.partialByte_kept hbits hsame⟩
  refine ⟨⟨_, exec_stopCondition hcap hb, kept_of_store_eq rfl rfl⟩, fun hM => ⟨_, exec_startCondition hcap, ?_⟩⟩
  rw [State.startCondition_nextFrame (hinv.primed_of_started hb) hM]
  exact kept_of_store_eq rfl rfl

/-- Settles O27: the rows are the four ways a clock can end; R20 item 2 makes "full" the same as `byteIndex = N`. -/
theorem outcomeTableOfClockEdges : Obligations.OutcomeTableOfClockEdges := by
  intro s d hinv hcap f k
  have hwrites := s.clockRise_writesOnlyActive d
  refine ⟨s.clockRise d, by rw [exec_sclRise, if_pos hcap], ?row, hwrites.elements, hwrites.cursors,
    s.clockRise_outside d⟩
  have not_ignored (hb : s.busState = .started) (hN : s.activeByte < s.cfg.N) :
      ¬(s.busState = .idle ∨ k = s.cfg.N) := by
    rintro (hidle | hfull)
    · exact absurd (hb.symm.trans hidle) (by decide)
    · exact hN.ne hfull
  obtain ⟨hb, ht⟩ | ⟨hb, hN, ht⟩ | ⟨hb, hN, h8, ht⟩ | ⟨hb, hN, h8, ht⟩ := s.clockRise_cases d <;> rw [ht]
  · rw [if_pos (.inl hb)]
  · have hfull : k = s.cfg.N := le_antisymm (hinv.byteBound f hinv.activeBound) hN
    rw [if_pos (.inr hfull), State.note_store]
  · rw [if_neg (not_ignored hb hN), if_pos (show s.bitIndexOf f < 8 from h8)]
    simp only [Prod.mk.injEq]
    exact ⟨s.takeDataBit_activeBit d, rfl, s.takeDataBit_byteAt d, rfl⟩
  · rw [if_neg (not_ignored hb hN), if_neg (show ¬s.bitIndexOf f < 8 from h8.not_gt)]
    simp only [Prod.mk.injEq]
    exact ⟨(s.takeAckBit_bitIndexOf d f).trans (if_pos rfl), (s.takeAckBit_byteIndexOf d f).trans (if_pos rfl), rfl,
      s.takeAckBit_ackAt d⟩

end Sys2Proof.Machine
end

section
/-! PROOFS. The Frame Store controller (42_frame_store.md): who moves the selection, the frame count, what the queries
answer, and the steps that change no state of the block. -/

namespace Sys2Proof.Machine

/-! ### The overflowing start condition, under both readings of D6 -/

section overflow

variable (s : State)

@[simp] theorem State.overflowStart_activeIndex : s.overflowStart.activeIndex = 0 := by
  rw [State.overflowStart]; split <;> rfl

@[simp] theorem State.overflowStart_selectedIndex : s.overflowStart.selectedIndex = 0 := by
  rw [State.overflowStart]; split <;> rfl

@[simp] theorem State.overflowStart_store : s.overflowStart.store = FrameStore.empty := by
  rw [State.overflowStart]; split <;> rfl

@[simp] theorem State.overflowStart_obs :
    s.overflowStart.obs = { s.obs with noted := s.obs.noted ++ [.capacityOverflow] } := by
  rw [State.overflowStart]; split <;> rfl

@[simp] theorem State.overflowStart_byteIndexOf (i : Nat) : s.overflowStart.byteIndexOf i = 0 := by
  rw [State.byteIndexOf, State.overflowStart_store]; rfl

variable {s}

theorem State.startCondition_eq_overflowStart (hp : s.primed = true) (hM : s.cfg.M ≤ s.activeIndex + 1) :
    s.startCondition = s.overflowStart := by
  rw [State.startCondition, s.startKind_overflow hp hM]

end overflow

/-! ### Who moves the selection -/

/-- What a bus event may do to the selection: it stands, with `activeIndex` not moving back, or a capacity overflow has
set both to 0 and noted X1 (R127, R86). -/
def SelectionStandsOrOverflows (s t : State) : Prop :=
  (t.selectedIndex = s.selectedIndex ∧ s.activeIndex ≤ t.activeIndex) ∨
    (t.selectedIndex = 0 ∧ t.activeIndex = 0 ∧ t.obs.noted = s.obs.noted ++ [.capacityOverflow])

theorem SelectionStandsOrOverflows.refl (s : State) : SelectionStandsOrOverflows s s := .inl ⟨rfl, le_rfl⟩

/-- Either way R20 item 4 is kept. -/
theorem SelectionStandsOrOverflows.selected_le_active {s t : State} (h : SelectionStandsOrOverflows s t)
    (hle : s.selectedIndex ≤ s.activeIndex) : t.selectedIndex ≤ t.activeIndex := by
  obtain ⟨hsel, hact⟩ | ⟨hsel, -, -⟩ := h
  · exact hsel ▸ hle.trans hact
  · exact hsel ▸ Nat.zero_le _

section busEvents

variable (s : State)

theorem State.startCondition_selection : SelectionStandsOrOverflows s s.startCondition := by
  obtain ⟨-, ht⟩ | ⟨-, -, ht⟩ | ⟨-, -, ht⟩ := s.startCondition_cases <;> rw [ht]
  · exact .inl ⟨rfl, le_rfl⟩
  · exact .inl ⟨rfl, Nat.le_succ _⟩
  · exact .inr ⟨s.overflowStart_selectedIndex, s.overflowStart_activeIndex, by rw [s.overflowStart_obs]⟩

theorem State.dataEdge_selection (scl sda : Level) : SelectionStandsOrOverflows s (s.dataEdge scl sda) := by
  obtain ⟨-, ht⟩ | ⟨-, -, -, ht⟩ | ⟨-, -, ht⟩ | ⟨-, -, -, ht⟩ := s.dataEdge_cases scl sda <;> rw [ht]
  · exact .inl ⟨rfl, le_rfl⟩
  · exact .inl ⟨rfl, le_rfl⟩
  · exact s.startCondition_selection
  · exact .refl s

theorem State.clockRise_selection (d : Level) : SelectionStandsOrOverflows s (s.clockRise d) :=
  have hsel := congrArg State.selectedIndex (s.clockRise_outside d)
  have hact := congrArg State.activeIndex (s.clockRise_outside d)
  .inl ⟨hsel, hact.ge⟩

variable {s} {t : State}

theorem exec_sdaEdge_selection {scl sda : Level} (h : exec (.sdaEdge scl sda) s = .next t) :
    SelectionStandsOrOverflows s t := by
  rw [exec_sdaEdge] at h
  cases h
  split
  · exact s.dataEdge_selection scl sda
  · exact .refl s

theorem exec_sclRise_selection {d : Level} (h : exec (.sclRise d) s = .next t) : SelectionStandsOrOverflows s t := by
  rw [exec_sclRise] at h
  cases h
  split
  · exact s.clockRise_selection d
  · exact .refl s

end busEvents

/-- R20 item 4 is kept by every operation, from every state that meets it. -/
theorem exec_selected_le_active {i : Instr} {s t : State} (h : exec i s = .next t)
    (hle : s.selectedIndex ≤ s.activeIndex) : t.selectedIndex ≤ t.activeIndex := by
  cases i with
  | sdaEdge scl sda => exact (exec_sdaEdge_selection h).selected_le_active hle
  | sclRise d => exact (exec_sclRise_selection h).selected_le_active hle
  | cmdStart =>
    cases h
    split
    · exact hle
    · exact Nat.le_refl 0
  | cmdStop => cases h; split <;> exact hle
  | cmdSelNext => cases h; exact Nat.min_le_right _ _
  | cmdSelPrev => cases h; exact (Nat.sub_le _ 1).trans hle
  | nop => cases h; exact hle
  | getFrameCount => cases h; exact hle
  | getBusState => cases h; exact hle
  | getFrame => cases h; exact hle

/-- Settles O36: the selection commands write `selectedIndex` alone, and a bus event leaves it or overflows. -/
theorem selectionAndDecoderAreIndependent : Obligations.SelectionAndDecoderAreIndependent := by
  intro i s t h
  refine ⟨?selection, ?busEvent, exec_selected_le_active h⟩
  case selection =>
    rintro (rfl | rfl)
    · rw [exec_cmdSelNext] at h; cases h; rfl
    · rw [exec_cmdSelPrev] at h; cases h; rfl
  case busEvent =>
    rintro (⟨scl, sda, rfl⟩ | ⟨d, rfl⟩)
    · exact (exec_sdaEdge_selection h).imp_left And.left
    · exact (exec_sclRise_selection h).imp_left And.left

/-- Settles O34: the rule of `CMD_SEL_NEXT`, the clamp being `min` (R125). -/
theorem selectNextIsClampedAtTheActiveFrame : Obligations.SelectNextIsClampedAtTheActiveFrame := exec_cmdSelNext

/-- Settles O35: subtraction on naturals stops at 0, which is the clamp of R126. -/
theorem selectPrevIsClampedAtZero : Obligations.SelectPrevIsClampedAtZero := by
  intro s
  have hclamp : (if s.selectedIndex > 0 then s.selectedIndex - 1 else 0) = s.selectedIndex - 1 := by
    split <;> omega
  rw [exec_cmdSelPrev, hclamp]

/-! ### The queries -/

theorem BlockInv.frameCount_le {s : State} (hinv : BlockInv s) : s.frameCount ≤ s.cfg.M := hinv.activeBound

/-- Settles O37: the range is R20 item 1, and an overflow returns `activeIndex` to 0 under both readings of D6. -/
theorem frameCountIsActiveIndexPlusOne : Obligations.FrameCountIsActiveIndexPlusOne := by
  intro s
  refine ⟨exec_getFrameCount s, fun _ => rfl, fun hinv => ⟨Nat.succ_pos _, hinv.frameCount_le⟩, ?fsReset, ?reset,
    fun hM hcap hp => ⟨s.overflowStart, ?overflow, ?count, s.overflowStart_byteIndexOf 0⟩⟩
  case fsReset => rw [State.frameCount, State.fsReset_activeIndex]
  case reset => rw [State.frameCount, State.reset_eq_hardReset, State.hardReset_activeIndex]
  case overflow => rw [exec_startCondition hcap, State.startCondition_eq_overflowStart hp hM]
  case count => rw [State.frameCount, State.overflowStart_activeIndex]

/-- Settles O38: the answer and the output port both read `busState` (R124, R191). -/
theorem busStateQueryAnswersTheBusState : Obligations.BusStateQueryAnswersTheBusState :=
  fun s => ⟨exec_getBusState s, fun _ => rfl⟩

section snapshot

variable (s : State) (i : Nat)

theorem State.snapshot_bytes_length : (s.snapshot i).bytes.length = s.cfg.N := by simp [State.snapshot]

theorem State.snapshot_ack_length : (s.snapshot i).ack.length = s.cfg.N := by simp [State.snapshot]

/-- Entry `k` of the record is what the read port shows at `k` (R69). -/
theorem State.snapshot_getElem? {k : Nat} (hk : k < s.cfg.N) :
    (s.snapshot i).bytes[k]? = some (s.readPort i k).rdByte ∧
      (s.snapshot i).ack[k]? = some (s.readPort i k).rdAck := by
  simp [State.snapshot, hk]

variable {i}

theorem State.snapshot_byteIndex_inRange (hi : i < s.cfg.M) : (s.snapshot i).byteIndex = s.byteIndexOf i := if_pos hi

theorem State.snapshot_byteIndex_outOfRange (hi : s.cfg.M ≤ i) : (s.snapshot i).byteIndex = 0 := if_neg hi.not_gt

end snapshot

/-- Settles O39: the reply is made of what the read port shows, which is the element in range and zero out of range. -/
theorem frameQueryAnswersTheSelectedElement : Obligations.FrameQueryAnswersTheSelectedElement := by
  intro s
  refine ⟨s.readPort s.rd.frame s.rd.pos, s.snapshot s.rd.frame, exec_getFrame s, rfl, fun hi hk => ?element,
    fun hout => ?noElement, s.snapshot_bytes_length _, s.snapshot_ack_length _,
    fun hi => ⟨s.snapshot_byteIndex_inRange hi, fun k hk => ?record⟩,
    fun hi => ⟨s.snapshot_byteIndex_outOfRange hi, fun k hk => ?noRecord⟩⟩
  case element => rw [s.readPort_inRange hi hk]; exact ⟨rfl, rfl, rfl⟩
  case noElement => rw [s.readPort_outOfRange hout]; exact ⟨rfl, rfl, rfl⟩
  case record =>
    have hentry := s.snapshot_getElem? s.rd.frame hk
    rwa [s.readPort_inRange hi hk] at hentry
  case noRecord =>
    have hentry := s.snapshot_getElem? s.rd.frame hk
    rwa [s.readPort_outOfRange (.inl hi)] at hentry

/-! ### A cycle without an event -/

theorem State.sclRiseEvent_eq_none {s : State} (h : ¬(s.frontEnd.sclP = .low ∧ s.frontEnd.sclS = .high)) :
    s.sclRiseEvent = none := if_neg fun hev => h hev.2

theorem State.sdaEdgeEvent_eq_none {s : State} (h : s.frontEnd.sdaP = s.frontEnd.sdaS) : s.sdaEdgeEvent = none :=
  if_neg fun hev => hev.2 h

/-- With no command presented, or a `NOP`, the command port gives nothing to do or a `NOP`. -/
theorem commandOfPins_none_or_nop {p : Pins} (h : p.cmdValid = false ∨ p.cmdOp = 0b000) :
    commandOfPins p = none ∨ commandOfPins p = some .nop := by
  rw [commandOfPins]
  obtain hvalid | hop := h
  · exact .inl (by rw [hvalid]; rfl)
  · rw [hop]
    split
    · exact .inr rfl
    · exact .inl rfl

/-- The operations of a cycle in which no bus event falls and no command but `NOP` is presented change nothing. -/
theorem execAll_cycleOps_quiet {s : State} {p : Pins} (hcmd : p.cmdValid = false ∨ p.cmdOp = 0b000)
    (hsda : s.frontEnd.sdaP = s.frontEnd.sdaS) (hscl : ¬(s.frontEnd.sclP = .low ∧ s.frontEnd.sclS = .high)) :
    execAll (s.cycleOps p) s = .next s := by
  rw [State.cycleOps, State.sclRiseEvent_eq_none hscl, State.sdaEdgeEvent_eq_none hsda]
  obtain hc | hc := commandOfPins_none_or_nop hcmd <;> rw [hc] <;> rfl

theorem sampleCycle_of_execAll {s t : State} {p : Pins} (hrst : p.rstN = .high)
    (h : execAll (s.cycleOps p) s = .next t) :
    sampleCycle p s = .next { t with frontEnd := s.frontEnd.shift p.sclI p.sdaI } := by
  rw [sampleCycle, hrst, if_neg (by decide), h]

/-- Settles O41: a quiet cycle does the front-end shift and nothing else. -/
theorem nopChangesNothing : Obligations.NopChangesNothing :=
  ⟨exec_nop, fun _ _ hrst hcmd hsda hscl =>
    ⟨_, sampleCycle_of_execAll hrst (execAll_cycleOps_quiet hcmd hsda hscl), rfl⟩⟩

end Sys2Proof.Machine
end

section
/-! PROOFS. The Capture Session Controller (43_session_controller.md): what the session commands answer, what the gate of
R143 stops while `Stopped`, and which operations move the session. -/

namespace Sys2Proof.Machine

/-! ### The session commands and the gate -/

section rules

variable {s : State}

/-- R145: a second `CMD_START` is noted as X3. -/
theorem exec_cmdStart_capturing (hcap : s.capturing = true) : exec .cmdStart s = .next (s.note .doubleStart) := by
  rw [exec_cmdStart, if_pos hcap]

/-- From `Stopped`, `CMD_START` leaves the block cleared and capturing. -/
theorem exists_exec_cmdStart_cleared (hcap : s.capturing = false) :
    ∃ t, exec .cmdStart s = .next t ∧ t.Cleared ∧ t.capturing = true :=
  ⟨_, exec_cmdStart_stopped hcap, s.fsReset_cleared, rfl⟩

theorem exec_cmdStop_stopped (hcap : s.capturing = false) : exec .cmdStop s = .next s := by
  rw [exec_cmdStop, hcap, if_neg Bool.false_ne_true]

/-- R142 and R150 in one: from either side of the session `CMD_STOP` ends in the same state but for `capturing`, which is
false. -/
theorem exec_cmdStop_eq (s : State) : exec .cmdStop s = .next { s with capturing := false } := by
  rw [exec_cmdStop]
  split
  · rfl
  · next hcap => rw [← Bool.eq_false_of_not_eq_true hcap]

section stopped

variable (hcap : s.capturing = false)
include hcap

theorem exec_sdaEdge_stopped (scl sda : Level) : exec (.sdaEdge scl sda) s = .next s := by
  rw [exec_sdaEdge, hcap, if_neg Bool.false_ne_true]

theorem exec_sclRise_stopped (d : Level) : exec (.sclRise d) s = .next s := by
  rw [exec_sclRise, hcap, if_neg Bool.false_ne_true]

/-- While `Stopped` neither bus event falls in a sample cycle: only the command is left (R143, R168). -/
theorem State.cycleOps_stopped (p : Pins) : s.cycleOps p = (commandOfPins p).toList := by
  have hscl : s.sclRiseEvent = none := if_neg fun hev => Bool.false_ne_true (hcap.symm.trans hev.1)
  have hsda : s.sdaEdgeEvent = none := if_neg fun hev => Bool.false_ne_true (hcap.symm.trans hev.1)
  rw [State.cycleOps, hscl, hsda]
  rfl

end stopped

end rules

theorem commandOfPins_of_not_valid {p : Pins} (h : p.cmdValid = false) : commandOfPins p = none := by
  rw [commandOfPins, h, if_neg Bool.false_ne_true]

/-- Settles O30: `FS_RESET()` and then capturing from `Stopped`, the note of X3 while `Capturing`. -/
theorem startCommandClearsThenCaptures : Obligations.StartCommandClearsThenCaptures :=
  fun _ => ⟨exec_cmdStart_stopped, exec_cmdStart_capturing⟩

/-- Settles O31: the rule of `CMD_STOP` from either side of the session. -/
theorem stopCommandOnlyEndsCapturing : Obligations.StopCommandOnlyEndsCapturing :=
  fun s => ⟨fun _ => exec_cmdStop_eq s, exec_cmdStop_stopped⟩

/-- Settles O29: the gate stops both bus events, so a cycle with no command has nothing to do but the front-end shift. -/
theorem busEventsAreGatedWhileStopped : Obligations.BusEventsAreGatedWhileStopped := by
  intro s hcap
  refine ⟨exec_sdaEdge_stopped hcap, exec_sclRise_stopped hcap, fun p hrst hvalid => ?_⟩
  have hops : execAll (s.cycleOps p) s = .next s := by
    rw [State.cycleOps_stopped hcap, commandOfPins_of_not_valid hvalid]; rfl
  exact sampleCycle_of_execAll hrst hops

/-! ### Who moves the session -/

section frame

variable (s : State)

@[simp] theorem State.overflowStart_capturing : s.overflowStart.capturing = s.capturing := by
  rw [State.overflowStart]; split <;> rfl

@[simp] theorem State.startCondition_capturing : s.startCondition.capturing = s.capturing := by
  obtain ⟨-, ht⟩ | ⟨-, -, ht⟩ | ⟨-, -, ht⟩ := s.startCondition_cases <;> rw [ht]
  exact s.overflowStart_capturing

@[simp] theorem State.dataEdge_capturing (scl sda : Level) : (s.dataEdge scl sda).capturing = s.capturing := by
  obtain ⟨-, ht⟩ | ⟨-, -, -, ht⟩ | ⟨-, -, ht⟩ | ⟨-, -, -, ht⟩ := s.dataEdge_cases scl sda <;> rw [ht]
  · rfl
  · rfl
  · exact s.startCondition_capturing

@[simp] theorem State.clockRise_capturing (d : Level) : (s.clockRise d).capturing = s.capturing :=
  have houtside := congrArg State.capturing (s.clockRise_outside d)
  houtside

end frame

/-- R140: no operation but the two session commands writes `capturing`. -/
theorem exec_capturing_eq {i : Instr} {s t : State} (h : exec i s = .next t) (hstart : i ≠ .cmdStart)
    (hstop : i ≠ .cmdStop) : t.capturing = s.capturing := by
  cases i with
  | sdaEdge scl sda =>
    cases h
    split
    · exact s.dataEdge_capturing scl sda
    · rfl
  | sclRise d =>
    cases h
    split
    · exact s.clockRise_capturing d
    · rfl
  | cmdStart => exact absurd rfl hstart
  | cmdStop => exact absurd rfl hstop
  | nop => cases h; rfl
  | cmdSelNext => cases h; rfl
  | cmdSelPrev => cases h; rfl
  | getFrameCount => cases h; rfl
  | getBusState => cases h; rfl
  | getFrame => cases h; rfl

theorem capturing_of_exec_cmdStart {s t : State} (h : exec .cmdStart s = .next t) : t.capturing = true := by
  cases h
  split
  · next hcap => exact hcap
  · rfl

theorem capturing_of_exec_cmdStop {s t : State} (h : exec .cmdStop s = .next t) : t.capturing = false := by
  rw [exec_cmdStop_eq] at h
  cases h
  rfl

/-- An operation that takes the session from `Stopped` to `Capturing` is `CMD_START`. -/
theorem eq_cmdStart_of_begins_capturing {i : Instr} {s t : State} (h : exec i s = .next t)
    (hs : s.capturing = false) (ht : t.capturing = true) : i = .cmdStart := by
  by_contra hstart
  have hf : t.capturing = false := by
    by_cases hstop : i = .cmdStop
    · exact capturing_of_exec_cmdStop (hstop ▸ h)
    · exact (exec_capturing_eq h hstart hstop).trans hs
  exact Bool.false_ne_true (hf.symm.trans ht)

/-- Settles O32: only the session commands write `capturing`, and what begins a session is `CMD_START`, whose
`FS_RESET()` leaves `Idle`. -/
theorem sessionHasTwoTransitions : Obligations.SessionHasTwoTransitions := by
  refine ⟨rfl, fun i s t h => ⟨?capturing, fun hs ht => ?idle⟩⟩
  case capturing =>
    split
    · exact capturing_of_exec_cmdStart h
    · exact capturing_of_exec_cmdStop h
    · next hstart hstop => exact exec_capturing_eq h hstart hstop
  case idle =>
    obtain rfl := eq_cmdStart_of_begins_capturing h hs ht
    rw [exec_cmdStart_stopped hs] at h
    cases h
    rfl

/-! ### The capture between two sessions -/

/-- From `s` to `t` nothing is written but the selection and what the steps showed: the capture stands (R146). -/
def CaptureStands (s t : State) : Prop := ∃ sel o, t = { s with selectedIndex := sel, obs := o }

theorem CaptureStands.refl (s : State) : CaptureStands s s := ⟨_, _, rfl⟩

theorem CaptureStands.trans {s t u : State} (hst : CaptureStands s t) (htu : CaptureStands t u) :
    CaptureStands s u := by
  obtain ⟨_, _, rfl⟩ := hst
  obtain ⟨_, _, rfl⟩ := htu
  exact ⟨_, _, rfl⟩

theorem CaptureStands.capturing_eq {s t : State} (h : CaptureStands s t) : t.capturing = s.capturing := by
  obtain ⟨_, _, rfl⟩ := h
  rfl

/-- While `Stopped` every operation but `CMD_START` completes, leaves the capture, and moves the selection only if it is
a selection command. -/
theorem exec_stopped {s : State} {i : Instr} (hcap : s.capturing = false) (hstart : i ≠ .cmdStart) :
    ∃ t, exec i s = .next t ∧ CaptureStands s t ∧
      (i ≠ .cmdSelNext ∧ i ≠ .cmdSelPrev → t.selectedIndex = s.selectedIndex) := by
  cases i with
  | cmdStart => exact absurd rfl hstart
  | nop => exact ⟨s, exec_nop s, .refl s, fun _ => rfl⟩
  | sdaEdge scl sda => exact ⟨s, exec_sdaEdge_stopped hcap scl sda, .refl s, fun _ => rfl⟩
  | sclRise d => exact ⟨s, exec_sclRise_stopped hcap d, .refl s, fun _ => rfl⟩
  | cmdStop => exact ⟨s, exec_cmdStop_stopped hcap, .refl s, fun _ => rfl⟩
  | cmdSelNext => exact ⟨_, exec_cmdSelNext s, ⟨_, _, rfl⟩, fun hsel => absurd rfl hsel.1⟩
  | cmdSelPrev => exact ⟨_, exec_cmdSelPrev s, ⟨_, _, rfl⟩, fun hsel => absurd rfl hsel.2⟩
  | getFrameCount => exact ⟨_, exec_getFrameCount s, ⟨_, _, rfl⟩, fun _ => rfl⟩
  | getBusState => exact ⟨_, exec_getBusState s, ⟨_, _, rfl⟩, fun _ => rfl⟩
  | getFrame => exact ⟨_, exec_getFrame s, ⟨_, _, rfl⟩, fun _ => rfl⟩

/-- The same of any list of operations without `CMD_START`: the block stays `Stopped` from one to the next. -/
theorem execAll_stopped {s : State} {is : List Instr} (hcap : s.capturing = false) (hstart : .cmdStart ∉ is) :
    ∃ t, execAll is s = .next t ∧ CaptureStands s t ∧
      ((∀ i ∈ is, i ≠ .cmdSelNext ∧ i ≠ .cmdSelPrev) → t.selectedIndex = s.selectedIndex) := by
  induction is generalizing s with
  | nil => exact ⟨s, execAll_nil s, .refl s, fun _ => rfl⟩
  | cons i is ih =>
    obtain ⟨hi, his⟩ := List.ne_and_not_mem_of_not_mem_cons hstart
    obtain ⟨t, ht, hst, hselt⟩ := exec_stopped hcap hi.symm
    obtain ⟨u, hu, htu, hselu⟩ := ih (hst.capturing_eq.trans hcap) his
    refine ⟨u, (execAll_cons_next s ht).trans hu, hst.trans htu, fun hsel => ?_⟩
    obtain ⟨hseli, hselis⟩ := List.forall_mem_cons.1 hsel
    exact (hselu hselis).trans (hselt hseli)

/-- Settles O33: `CMD_STOP` writes `capturing` alone, the capture stands while `Stopped`, and `CMD_START` from `Stopped`
begins with `FS_RESET()`. -/
theorem captureStandsUntilTheNextStart : Obligations.CaptureStandsUntilTheNextStart := by
  intro s is hstart
  obtain ⟨_, ht, ⟨sel, o, rfl⟩, hsel⟩ := execAll_stopped (s := { s with capturing := false }) rfl hstart
  exact ⟨_, (execAll_cons_next s (exec_cmdStop_eq s)).trans ht, rfl, rfl, rfl, rfl, rfl, hsel,
    exists_exec_cmdStart_cleared rfl⟩

end Sys2Proof.Machine
end

section
/-! PROOFS. The operations of one sample cycle (70_reset_and_hazards.md, R168): each that falls is a whole step, and the
next steps from the state it left. -/

namespace Sys2Proof.Machine

/-! ### One place of the cycle -/

/-- No operation can fault or be refused (R160). -/
theorem exists_exec_next (i : Instr) (s : State) : ∃ t, exec i s = .next t := by
  cases i <;> exact ⟨_, rfl⟩

/-- What one place of the cycle does: the operation that falls there steps, and with none the state stands. -/
def StepsIfAny : Option Instr → State → State → Prop
  | none, s, t => t = s
  | some i, s, t => exec i s = .next t

section place

variable {s t : State}

@[simp] theorem stepsIfAny_none : StepsIfAny none s t ↔ t = s := .rfl

@[simp] theorem stepsIfAny_some {i : Instr} : StepsIfAny (some i) s t ↔ exec i s = .next t := .rfl

theorem stepsIfAny_nop : StepsIfAny (some .nop) s t ↔ t = s := by
  rw [stepsIfAny_some, exec_nop, Host.Outcome.next.injEq, eq_comm]

@[simp] theorem stepsIfAny_ite {c : Prop} [Decidable c] {o o' : Option Instr} :
    StepsIfAny (if c then o else o') s t ↔ if c then StepsIfAny o s t else StepsIfAny o' s t := by
  split <;> rfl

theorem exists_stepsIfAny (o : Option Instr) (s : State) : ∃ t, StepsIfAny o s t := by
  cases o with
  | none => exact ⟨s, rfl⟩
  | some i => exact exists_exec_next i s

/-- What follows in the cycle steps from the state this place left. -/
theorem execAll_toList_append {o : Option Instr} (h : StepsIfAny o s t) (is : List Instr) :
    execAll (o.toList ++ is) s = execAll is t := by
  cases o with
  | none => rw [stepsIfAny_none.1 h]; rfl
  | some i => exact execAll_cons_next s h

end place

/-! ### The three places in their order -/

/-- The bus events and the command step one after another, though both events are read off the first state (R168). -/
theorem execAll_cycleOps {s s1 s2 s3 : State} {p : Pins} (hscl : StepsIfAny s.sclRiseEvent s s1)
    (hsda : StepsIfAny s.sdaEdgeEvent s1 s2) (hcmd : StepsIfAny (commandOfPins p) s2 s3) :
    execAll (s.cycleOps p) s = .next s3 := by
  calc execAll (s.cycleOps p) s
    _ = execAll (s.sclRiseEvent.toList ++ (s.sdaEdgeEvent.toList ++ ((commandOfPins p).toList ++ []))) s := by
      rw [State.cycleOps, List.append_nil, List.append_assoc]
    _ = .next s3 := by
      rw [execAll_toList_append hscl, execAll_toList_append hsda, execAll_toList_append hcmd, execAll_nil]

/-- The port values of R66: four commands, the `NOP`, and reserved values. -/
theorem commandOfPort_eq_ite (op : BitVec 3) :
    commandOfPort op = if op = 0b011 then some .cmdStart else if op = 0b100 then some .cmdStop
      else if op = 0b101 then some .cmdSelNext else if op = 0b110 then some .cmdSelPrev
      else if op = 0b000 then some .nop else none := by
  revert op; decide

/-- What a cycle's command does, by the port's value: a `NOP` leaves the state as a reserved value and a silent port do
(R64, R130). -/
theorem stepsIfAny_commandOfPins {p : Pins} {s t : State} (h : StepsIfAny (commandOfPins p) s t) :
    if p.cmdValid = true ∧ p.cmdOp = 0b011 then exec .cmdStart s = .next t
    else if p.cmdValid = true ∧ p.cmdOp = 0b100 then exec .cmdStop s = .next t
    else if p.cmdValid = true ∧ p.cmdOp = 0b101 then exec .cmdSelNext s = .next t
    else if p.cmdValid = true ∧ p.cmdOp = 0b110 then exec .cmdSelPrev s = .next t
    else t = s := by
  cases hvalid : p.cmdValid with
  | false =>
    rw [commandOfPins_of_not_valid hvalid] at h
    simpa using h
  | true =>
    rw [commandOfPins, if_pos hvalid, commandOfPort_eq_ite] at h
    simp only [stepsIfAny_ite, stepsIfAny_nop, stepsIfAny_none, ite_self] at h
    simpa using h

/-- Settles O46: the three places of the cycle in their order, and then the shift of the front end. -/
theorem operationsOfOneCycleStepInOrder : Obligations.OperationsOfOneCycleStepInOrder := by
  intro s p hrst
  obtain ⟨s1, hscl⟩ := exists_stepsIfAny s.sclRiseEvent s
  obtain ⟨s2, hsda⟩ := exists_stepsIfAny s.sdaEdgeEvent s1
  obtain ⟨s3, hcmd⟩ := exists_stepsIfAny (commandOfPins p) s2
  exact ⟨s1, s2, s3, stepsIfAny_ite.1 hscl, stepsIfAny_ite.1 hsda, stepsIfAny_commandOfPins hcmd,
    sampleCycle_of_execAll hrst (execAll_cycleOps hscl hsda hcmd)⟩

end Sys2Proof.Machine
end

section
/-! PROOFS. The invariants (10_state.md section 5) through every operation: a store that is cleared, a store that stands,
and a clock that writes the active frame. -/

namespace Sys2Proof.Machine

/-! ### A store that is clear, and a store that stands -/

/-- A block whose store is empty and whose indices are 0 meets R20; only item 5 looks at its states. -/
theorem blockInv_of_empty {s : State} (hparams : 1 ≤ s.cfg.N ∧ 1 ≤ s.cfg.M) (hstore : s.store = FrameStore.empty)
    (hact : s.activeIndex = 0) (hsel : s.selectedIndex = 0) (hbus : s.primed = false → s.busState = .idle) :
    BlockInv s := by
  obtain ⟨hN, hM⟩ := hparams
  have hbyte i k : s.byteAt i k = 0 := by rw [State.byteAt, hstore]; rfl
  have hack i k : s.ackAt i k = false := by rw [State.ackAt, hstore]; rfl
  have hbit i : s.bitIndexOf i = 0 := by rw [State.bitIndexOf, hstore]; rfl
  have hcount i : s.byteIndexOf i = 0 := by rw [State.byteIndexOf, hstore]; rfl
  exact {
    params := ⟨hN, hM⟩
    canonical := hstore ▸ FrameStore.empty_wf
    inRange := by rw [hstore]; constructor <;> exact fun _ he => absurd he List.not_mem_nil
    activeBound := by omega
    byteBound := by simp [hcount]
    bitBound := by simp [hbit]
    selectedBound := by omega
    unprimed := fun hp => ⟨hbus hp, hact⟩
    aboveClear := by simp [hbit, hcount, hbyte, hack]
    unwrittenClear := by simp [hbyte, hack]
    partialByte := by simp [hbyte, hbit]
    fullFrame := by simp [hbit] }

theorem State.Cleared.blockInv {s : State} (h : s.Cleared) (hparams : 1 ≤ s.cfg.N ∧ 1 ≤ s.cfg.M) : BlockInv s := by
  obtain ⟨hstore, hact, hsel, hbus, -⟩ := h
  exact blockInv_of_empty hparams hstore hact hsel fun _ => hbus

/-! ### The invariants frame by frame -/

/-- R20 items 2, 3, 7, 8 and 9 of one frame. -/
structure FrameInv (s : State) (i : Nat) : Prop where
  byteBound      : s.byteIndexOf i ≤ s.cfg.N
  bitBound       : s.bitIndexOf i ≤ 8
  unwrittenClear : ∀ k < s.cfg.N,
    (s.byteIndexOf i ≤ k → s.ackAt i k = false) ∧ (s.byteIndexOf i < k → s.byteAt i k = 0)
  partialByte    : s.byteIndexOf i < s.cfg.N → (s.byteAt i (s.byteIndexOf i)).toNat < 2 ^ s.bitIndexOf i
  fullFrame      : s.byteIndexOf i = s.cfg.N → s.bitIndexOf i = 0

theorem BlockInv.frameInv {s : State} (hinv : BlockInv s) {i : Nat} (hi : i < s.cfg.M) : FrameInv s i :=
  ⟨hinv.byteBound i hi, hinv.bitBound i hi, hinv.unwrittenClear i hi, hinv.partialByte i hi, hinv.fullFrame i hi⟩

section frames

variable {s t : State}

/-- What the invariants say of a frame is said of its contents. -/
theorem FrameInv.of_sameFrame {i : Nat} (h : FrameInv s i) (hcfg : t.cfg = s.cfg) (hsame : SameFrame s t i) :
    FrameInv t i := by
  obtain ⟨helement, hbit, hcount⟩ := hsame
  refine ⟨?byteBound, ?bitBound, ?unwrittenClear, ?partialByte, ?fullFrame⟩
  case byteBound => rw [hcount, hcfg]; exact h.byteBound
  case bitBound => rw [hbit]; exact h.bitBound
  case unwrittenClear =>
    rw [hcount, hcfg]
    intro k hk
    obtain ⟨hbyte, hack⟩ := helement k hk
    rw [hbyte, hack]
    exact h.unwrittenClear k hk
  case partialByte =>
    rw [hcount, hbit, hcfg]
    intro hlt
    rw [(helement _ hlt).1]
    exact h.partialByte hlt
  case fullFrame => rw [hcount, hbit, hcfg]; exact h.fullFrame

variable (hinv : BlockInv s) (hcfg : t.cfg = s.cfg)
include hinv hcfg

/-- A step keeps R20 if each frame it leaves meets its part, the frames above `activeIndex`, which moves only on, have
the contents they had, and items 1, 4 and 5 and the form of the store are kept. -/
theorem BlockInv.of_frameInv (hwf : t.store.wf) (hrange : t.store.InRange s.cfg)
    (hact : s.activeIndex ≤ t.activeIndex) (hM : t.activeIndex < s.cfg.M) (hsel : t.selectedIndex ≤ t.activeIndex)
    (hunprimed : t.primed = false → t.busState = .idle ∧ t.activeIndex = 0)
    (hsame : ∀ i, t.activeIndex < i → SameFrame s t i) (hframes : ∀ i < s.cfg.M, FrameInv t i) : BlockInv t := by
  rw [← hcfg] at hframes
  exact {
    params := hcfg ▸ hinv.params
    canonical := hwf
    inRange := hcfg ▸ hrange
    activeBound := hcfg ▸ hM
    byteBound := fun i hi => (hframes i hi).byteBound
    bitBound := fun i hi => (hframes i hi).bitBound
    selectedBound := hsel
    unprimed := hunprimed
    aboveClear := by
      rw [hcfg]
      intro i hi habove
      obtain ⟨helement, hbit, hcount⟩ := hsame i habove
      obtain ⟨hbit0, hcount0, hclear⟩ := hinv.aboveClear i hi (hact.trans_lt habove)
      refine ⟨hbit.trans hbit0, hcount.trans hcount0, fun k hk => ?_⟩
      obtain ⟨hbyte, hack⟩ := helement k hk
      obtain ⟨hbyte0, hack0⟩ := hclear k hk
      exact ⟨hbyte.trans hbyte0, hack.trans hack0⟩
    unwrittenClear := fun i hi => (hframes i hi).unwrittenClear
    partialByte := fun i hi => (hframes i hi).partialByte
    fullFrame := fun i hi => (hframes i hi).fullFrame }

variable (hstore : t.store = s.store)
include hstore

/-- A step that writes no frame. -/
theorem BlockInv.of_store_eq (hact : s.activeIndex ≤ t.activeIndex) (hM : t.activeIndex < s.cfg.M)
    (hsel : t.selectedIndex ≤ t.activeIndex)
    (hunprimed : t.primed = false → t.busState = .idle ∧ t.activeIndex = 0) : BlockInv t := by
  have hsame i : SameFrame s t i := sameFrame_of_store_eq hstore hcfg i
  exact hinv.of_frameInv hcfg (hstore ▸ hinv.canonical) (hstore ▸ hinv.inRange) hact hM hsel hunprimed
    (fun i _ => hsame i) fun i hi => (hinv.frameInv hi).of_sameFrame hcfg (hsame i)

/-- The session, the front end, the read-port inputs, the stimuli and what the steps showed are in no invariant. -/
theorem BlockInv.of_outside (hact : t.activeIndex = s.activeIndex) (hsel : t.selectedIndex ≤ s.activeIndex)
    (hbus : t.busState = s.busState) (hp : t.primed = s.primed) : BlockInv t :=
  hinv.of_store_eq hcfg hstore hact.ge (hact ▸ hinv.activeBound) (hact ▸ hsel)
    (by rw [hp, hbus, hact]; exact hinv.unprimed)

end frames

/-! ### A clock that writes the active frame -/

section range

variable (s : State) {c : Config} {i k : Nat}

theorem State.setByte_inRange (h : s.store.InRange s.cfg) (hi : i < s.cfg.M) (hk : k < s.cfg.N) (v : Byte) :
    (s.setByte i k v).store.InRange s.cfg :=
  ⟨Memory.write_keys_lt v h.bytes (s.elementKey_lt hi hk), h.acks, h.bitIndex, h.byteIndex⟩

theorem State.setAck_inRange (h : s.store.InRange s.cfg) (hi : i < s.cfg.M) (hk : k < s.cfg.N) (v : Bool) :
    (s.setAck i k v).store.InRange s.cfg :=
  ⟨h.bytes, Memory.write_keys_lt v h.acks (s.elementKey_lt hi hk), h.bitIndex, h.byteIndex⟩

theorem State.setBitIndex_inRange (h : s.store.InRange c) (hi : i < c.M) (v : Nat) :
    (s.setBitIndex i v).store.InRange c :=
  ⟨h.bytes, h.acks, Memory.write_keys_lt v h.bitIndex hi, h.byteIndex⟩

theorem State.setByteIndex_inRange (h : s.store.InRange c) (hi : i < c.M) (v : Nat) :
    (s.setByteIndex i v).store.InRange c :=
  ⟨h.bytes, h.acks, h.bitIndex, Memory.write_keys_lt v h.byteIndex hi⟩

end range

section clock

variable {s t : State}

/-- Another frame than the active one shares no key with the element under assembly (R40). -/
theorem WritesOnlyActive.sameFrame (hwrites : WritesOnlyActive s t) (hcfg : t.cfg = s.cfg)
    (hN : s.activeByte < s.cfg.N) {j : Nat} (hj : j ≠ s.activeIndex) : SameFrame s t j := by
  refine ⟨fun k hk => ?_, hwrites.cursors j hj⟩
  have hkey : s.elementKey j k ≠ s.elementKey s.activeIndex s.activeByte :=
    fun h => hj (s.elementKey_inj hk hN h).1
  simp only [State.byteAt, State.ackAt, State.elementKey, hcfg]
  exact hwrites.elements _ hkey

/-- A clock need only be looked at in the active frame. -/
theorem BlockInv.of_writesOnlyActive (hinv : BlockInv s) (houtside : { t with store := s.store } = s)
    (hwrites : WritesOnlyActive s t) (hN : s.activeByte < s.cfg.N) (hwf : t.store.wf) (hrange : t.store.InRange s.cfg)
    (hframe : FrameInv t s.activeIndex) : BlockInv t := by
  have hcfg : t.cfg = s.cfg := (congrArg State.cfg houtside :)
  have hact : t.activeIndex = s.activeIndex := (congrArg State.activeIndex houtside :)
  have hsel : t.selectedIndex = s.selectedIndex := (congrArg State.selectedIndex houtside :)
  have hp : t.primed = s.primed := (congrArg State.primed houtside :)
  have hbus : t.busState = s.busState := (congrArg State.busState houtside :)
  have hsame j (hj : j ≠ s.activeIndex) : SameFrame s t j := hwrites.sameFrame hcfg hN hj
  refine hinv.of_frameInv hcfg hwf hrange hact.ge (hact ▸ hinv.activeBound) (hsel ▸ hact ▸ hinv.selectedBound)
    (by rw [hp, hbus, hact]; exact hinv.unprimed) (fun j hj => hsame j (hact ▸ hj).ne') fun j hj => ?_
  by_cases h : j = s.activeIndex
  · exact h ▸ hframe
  · exact (hinv.frameInv hj).of_sameFrame hcfg (hsame j h)

variable (hinv : BlockInv s) (d : Level) (hN : s.activeByte < s.cfg.N)
include hinv hN

/-- R102: the byte under assembly, below `2^bitIndex`, at most doubles. -/
theorem BlockInv.takeDataBit_frameInv (h8 : s.activeBit < 8) : FrameInv (s.takeDataBit d) s.activeIndex := by
  have hframe := hinv.frameInv hinv.activeBound
  have hbit : (s.takeDataBit d).bitIndexOf s.activeIndex = s.activeBit + 1 := s.takeDataBit_activeBit d
  constructor
  case byteBound => exact hframe.byteBound
  case bitBound => omega
  case unwrittenClear =>
    intro k hk
    refine ⟨(hframe.unwrittenClear k hk).1, fun hlt => ?_⟩
    have hother : (s.takeDataBit d).byteAt s.activeIndex k = s.byteAt s.activeIndex k :=
      s.setByte_byteAt_other _ hk hN fun h => hlt.ne' h.2
    exact hother.trans ((hframe.unwrittenClear k hk).2 hlt)
  case partialByte =>
    intro _
    have hlt : (s.byteAt s.activeIndex s.activeByte).toNat < 2 ^ s.activeBit := hframe.partialByte hN
    have hle := shiftIn_toNat_le (s.byteAt s.activeIndex s.activeByte) d
    rw [hbit, pow_succ]
    calc ((s.takeDataBit d).byteAt s.activeIndex s.activeByte).toNat
        = (shiftIn (s.byteAt s.activeIndex s.activeByte) d).toNat := by rw [s.takeDataBit_byteAt d]
      _ < 2 ^ s.activeBit * 2 := by omega
  case fullFrame => exact fun hfull => absurd hfull hN.ne

/-- R103: the byte just counted leaves the next one zero and its ack flag clear. -/
theorem BlockInv.takeAckBit_frameInv : FrameInv (s.takeAckBit d) s.activeIndex := by
  have hframe := hinv.frameInv hinv.activeBound
  have hbit : (s.takeAckBit d).bitIndexOf s.activeIndex = 0 := (s.takeAckBit_bitIndexOf d _).trans (if_pos rfl)
  have hcount : (s.takeAckBit d).byteIndexOf s.activeIndex = s.activeByte + 1 :=
    (s.takeAckBit_byteIndexOf d _).trans (if_pos rfl)
  have hzero k (hk : k < s.cfg.N) (hlt : s.activeByte < k) : s.byteAt s.activeIndex k = 0 :=
    (hframe.unwrittenClear k hk).2 hlt
  constructor
  case byteBound => rw [hcount]; exact hN
  case bitBound => omega
  case unwrittenClear =>
    intro k hk
    rw [hcount]
    refine ⟨fun hle => ?_, fun hlt => hzero k hk (by omega)⟩
    have hother : (s.takeAckBit d).ackAt s.activeIndex k = s.ackAt s.activeIndex k :=
      s.setAck_ackAt_other _ hk hN fun h => (Nat.lt_of_succ_le hle).ne' h.2
    exact hother.trans ((hframe.unwrittenClear k hk).1 (Nat.le_of_succ_le hle))
  case partialByte =>
    rw [hcount, hbit]
    intro hlt
    have hnext : (s.takeAckBit d).byteAt s.activeIndex (s.activeByte + 1) = 0 := hzero _ hlt (Nat.lt_succ_self _)
    rw [hnext]
    decide
  case fullFrame => exact fun _ => hbit

theorem BlockInv.takeDataBit (h8 : s.activeBit < 8) : BlockInv (s.takeDataBit d) := by
  refine hinv.of_writesOnlyActive (s.takeDataBit_outside d) (s.takeDataBit_writesOnlyActive d) hN ?canonical ?inRange
    (hinv.takeDataBit_frameInv d hN h8)
  case canonical => exact State.setBitIndex_wf _ (s.setByte_wf hinv.canonical _ _ _) _ _
  case inRange =>
    exact State.setBitIndex_inRange _ (s.setByte_inRange hinv.inRange hinv.activeBound hN _) hinv.activeBound _

theorem BlockInv.takeAckBit : BlockInv (s.takeAckBit d) := by
  refine hinv.of_writesOnlyActive (s.takeAckBit_outside d) (s.takeAckBit_writesOnlyActive d) hN ?canonical ?inRange
    (hinv.takeAckBit_frameInv d hN)
  case canonical =>
    exact State.setBitIndex_wf _ (State.setByteIndex_wf _ (s.setAck_wf hinv.canonical _ _ _) _ _) _ _
  case inRange =>
    have hack := s.setAck_inRange hinv.inRange hinv.activeBound hN (ackOfLevel d)
    exact State.setBitIndex_inRange _ (State.setByteIndex_inRange _ hack hinv.activeBound _) hinv.activeBound _

end clock

/-! ### Every operation -/

section operations

variable {s : State} (hinv : BlockInv s)
include hinv

theorem BlockInv.note (x : Condition) : BlockInv (s.note x) :=
  hinv.of_outside rfl rfl rfl hinv.selectedBound rfl rfl

theorem BlockInv.answer (r : Reply) : BlockInv (s.answer r) :=
  hinv.of_outside rfl rfl rfl hinv.selectedBound rfl rfl

theorem BlockInv.clockRise (d : Level) : BlockInv (s.clockRise d) := by
  obtain ⟨-, ht⟩ | ⟨-, -, ht⟩ | ⟨-, hN, h8, ht⟩ | ⟨-, hN, -, ht⟩ := s.clockRise_cases d <;> rw [ht]
  · exact hinv
  · exact hinv.note _
  · exact hinv.takeDataBit d hN h8
  · exact hinv.takeAckBit d hN

theorem BlockInv.overflowStart : BlockInv s.overflowStart := by
  rw [State.overflowStart]
  split
  · exact blockInv_of_empty hinv.params rfl rfl rfl nofun
  · exact (State.fsReset_cleared _).blockInv hinv.params

theorem BlockInv.startCondition : BlockInv s.startCondition := by
  obtain ⟨hp, ht⟩ | ⟨hp, hM, ht⟩ | ⟨-, -, ht⟩ := s.startCondition_cases <;> rw [ht]
  · exact hinv.of_store_eq rfl rfl le_rfl hinv.activeBound hinv.selectedBound nofun
  · refine hinv.of_store_eq rfl rfl (Nat.le_succ _) hM (Nat.le_succ_of_le hinv.selectedBound) fun h => ?_
    exact absurd (hp.symm.trans h) (by decide)
  · exact hinv.overflowStart

/-- A stop condition is in the way of no invariant: `Idle` is what item 5 asks for. -/
theorem BlockInv.stopCondition : BlockInv s.stopCondition :=
  hinv.of_store_eq rfl rfl le_rfl hinv.activeBound hinv.selectedBound fun hp => ⟨rfl, (hinv.unprimed hp).2⟩

theorem BlockInv.dataEdge (scl sda : Level) : BlockInv (s.dataEdge scl sda) := by
  obtain ⟨-, ht⟩ | ⟨-, -, -, ht⟩ | ⟨-, -, ht⟩ | ⟨-, -, -, ht⟩ := s.dataEdge_cases scl sda <;> rw [ht]
  · exact hinv.note _
  · exact hinv.stopCondition
  · exact hinv.startCondition
  · exact hinv

theorem BlockInv.beginStep (rd : ReadSel) (rest : List Stimulus) : BlockInv (s.beginStep rd rest) :=
  hinv.of_outside rfl rfl rfl hinv.selectedBound rfl rfl

theorem BlockInv.hardReset : BlockInv s.hardReset := s.hardReset_cleared.blockInv hinv.params

theorem BlockInv.exec {i : Instr} {t : State} (h : exec i s = .next t) : BlockInv t := by
  have hsel : t.selectedIndex ≤ t.activeIndex := exec_selected_le_active h hinv.selectedBound
  cases i with
  | nop => cases h; exact hinv
  | sdaEdge scl sda =>
    cases h
    split
    · exact hinv.dataEdge scl sda
    · exact hinv
  | sclRise d =>
    cases h
    split
    · exact hinv.clockRise d
    · exact hinv
  | cmdStart =>
    cases h
    split
    · exact hinv.note _
    · exact blockInv_of_empty hinv.params rfl rfl rfl fun _ => rfl
  | cmdStop =>
    rw [exec_cmdStop_eq] at h
    cases h
    exact hinv.of_outside rfl rfl rfl hinv.selectedBound rfl rfl
  | cmdSelNext => cases h; exact hinv.of_outside rfl rfl rfl hsel rfl rfl
  | cmdSelPrev => cases h; exact hinv.of_outside rfl rfl rfl hsel rfl rfl
  | getFrameCount => cases h; exact hinv.answer _
  | getBusState => cases h; exact hinv.answer _
  | getFrame => cases h; exact hinv.answer _

end operations

end Sys2Proof.Machine
end

section
/-! PROOFS. Operations in turn, and the step: what no operation writes, what any list of operations keeps, and the four
ways a step can answer. -/

namespace Sys2Proof.Machine

/-! ### What no operation writes -/

theorem State.dataEdge_outside (s : State) (scl sda : Level) :
    { s.dataEdge scl sda with
      busState := s.busState, primed := s.primed, activeIndex := s.activeIndex, selectedIndex := s.selectedIndex
      store := s.store, obs := s.obs } = s := by
  obtain ⟨-, ht⟩ | ⟨-, -, -, ht⟩ | ⟨-, -, ht⟩ | ⟨-, -, -, ht⟩ := s.dataEdge_cases scl sda <;> rw [ht]
  · rfl
  · rfl
  · obtain ⟨-, hs⟩ | ⟨-, -, hs⟩ | ⟨-, -, hs⟩ := s.startCondition_cases <;> rw [hs]
    rw [State.overflowStart]
    split <;> rfl

/-- An operation's meaning lies in the block: it writes neither the parameters nor the front end, the read-port inputs or
the stimuli. -/
structure SameSurroundings (s t : State) : Prop where
  cfg      : t.cfg = s.cfg
  frontEnd : t.frontEnd = s.frontEnd
  rd       : t.rd = s.rd
  stimuli  : t.stimuli = s.stimuli

theorem SameSurroundings.refl (s : State) : SameSurroundings s s := ⟨rfl, rfl, rfl, rfl⟩

theorem State.dataEdge_surroundings (s : State) (scl sda : Level) : SameSurroundings s (s.dataEdge scl sda) where
  cfg := (congrArg State.cfg (s.dataEdge_outside scl sda) :)
  frontEnd := (congrArg State.frontEnd (s.dataEdge_outside scl sda) :)
  rd := (congrArg State.rd (s.dataEdge_outside scl sda) :)
  stimuli := (congrArg State.stimuli (s.dataEdge_outside scl sda) :)

theorem State.clockRise_surroundings (s : State) (d : Level) : SameSurroundings s (s.clockRise d) where
  cfg := (congrArg State.cfg (s.clockRise_outside d) :)
  frontEnd := (congrArg State.frontEnd (s.clockRise_outside d) :)
  rd := (congrArg State.rd (s.clockRise_outside d) :)
  stimuli := (congrArg State.stimuli (s.clockRise_outside d) :)

theorem exec_surroundings {i : Instr} {s t : State} (h : exec i s = .next t) : SameSurroundings s t := by
  cases i with
  | sdaEdge scl sda =>
    cases h
    split
    · exact s.dataEdge_surroundings scl sda
    · exact .refl s
  | sclRise d =>
    cases h
    split
    · exact s.clockRise_surroundings d
    · exact .refl s
  | cmdStart => cases h; split <;> exact ⟨rfl, rfl, rfl, rfl⟩
  | cmdStop => cases h; split <;> exact ⟨rfl, rfl, rfl, rfl⟩
  | nop => cases h; exact .refl s
  | cmdSelNext => cases h; exact ⟨rfl, rfl, rfl, rfl⟩
  | cmdSelPrev => cases h; exact ⟨rfl, rfl, rfl, rfl⟩
  | getFrameCount => cases h; exact ⟨rfl, rfl, rfl, rfl⟩
  | getBusState => cases h; exact ⟨rfl, rfl, rfl, rfl⟩
  | getFrame => cases h; exact ⟨rfl, rfl, rfl, rfl⟩

theorem exec_cfg {i : Instr} {s t : State} (h : exec i s = .next t) : t.cfg = s.cfg := (exec_surroundings h).cfg

/-! ### Several operations -/

theorem execAll_cons_inv {i : Instr} {is : List Instr} {s t : State} (h : execAll (i :: is) s = .next t) :
    ∃ u, exec i s = .next u ∧ execAll is u = .next t := by
  obtain ⟨u, hu⟩ := exists_exec_next i s
  exact ⟨u, hu, (execAll_cons_next s hu).symm.trans h⟩

theorem exists_execAll_next (is : List Instr) (s : State) : ∃ t, execAll is s = .next t := by
  induction is generalizing s with
  | nil => exact ⟨s, execAll_nil s⟩
  | cons i is ih =>
    obtain ⟨u, hu⟩ := exists_exec_next i s
    obtain ⟨t, ht⟩ := ih u
    exact ⟨t, (execAll_cons_next s hu).trans ht⟩

/-- What every operation keeps, any list of them keeps. -/
theorem execAll_keeps {P : State → Prop} (hexec : ∀ i u v, exec i u = .next v → P u → P v) {is : List Instr}
    {s t : State} (h : execAll is s = .next t) (hs : P s) : P t := by
  induction is generalizing s with
  | nil => cases h; exact hs
  | cons i is ih =>
    obtain ⟨u, hu, ht⟩ := execAll_cons_inv h
    exact ih ht (hexec i s u hu hs)

/-! ### One step, by the head of the stimuli -/

section step

variable {s : State} {w : Byte} {rd : ReadSel} {p : Pins} {rest : List Stimulus}

theorem step_of_nil (h : s.stimuli = []) : step s = .next (s.beginStep s.rd []) := step_idle s h

theorem step_word_of_decode {i : Instr} (h : s.stimuli = .word w rd :: rest) (hw : decodeWord w = .instr i) :
    step s = exec i (s.beginStep rd rest) := by
  rw [step_word s h, wordStep, hw]

theorem step_word_of_reserved {why : Reserved} (h : s.stimuli = .word w rd :: rest)
    (hw : decodeWord w = .reserved why) : step s = .refused (.reservedWord w why) := by
  rw [step_word s h, wordStep, hw]

theorem step_cycle_inReset (h : s.stimuli = .cycle p :: rest) (hrst : p.rstN = .low) :
    step s = .next (s.beginStep p.rd rest).hardReset := by
  rw [step_cycle s h, cycleStep, sampleCycle, if_pos hrst]

theorem step_cycle_of_execAll {u : State} (h : s.stimuli = .cycle p :: rest) (hrst : p.rstN = .high)
    (hu : execAll (s.cycleOps p) (s.beginStep p.rd rest) = .next u) :
    step s = .next { u with frontEnd := s.frontEnd.shift p.sclI p.sdaI } := by
  rw [step_cycle s h, cycleStep]
  exact sampleCycle_of_execAll hrst hu

/-- The four ways a step can answer a next state. -/
theorem step_cases {t : State} (h : step s = .next t) :
    (s.stimuli = [] ∧ t = s.beginStep s.rd []) ∨
      (∃ w rd rest i, s.stimuli = .word w rd :: rest ∧ decodeWord w = .instr i ∧
        exec i (s.beginStep rd rest) = .next t) ∨
      (∃ p rest, s.stimuli = .cycle p :: rest ∧ p.rstN = .low ∧ t = (s.beginStep p.rd rest).hardReset) ∨
      (∃ p rest u, s.stimuli = .cycle p :: rest ∧ p.rstN = .high ∧
        execAll (s.cycleOps p) (s.beginStep p.rd rest) = .next u ∧
        t = { u with frontEnd := s.frontEnd.shift p.sclI p.sdaI }) := by
  match hs : s.stimuli with
  | [] =>
    rw [step_of_nil hs] at h
    cases h
    exact .inl ⟨rfl, rfl⟩
  | .word w rd :: rest =>
    cases hw : decodeWord w with
    | instr i => exact .inr (.inl ⟨w, rd, rest, i, rfl, hw, (step_word_of_decode hs hw).symm.trans h⟩)
    | reserved why => rw [step_word_of_reserved hs hw] at h; cases h
  | .cycle p :: rest =>
    cases hrst : p.rstN with
    | low =>
      rw [step_cycle_inReset hs hrst] at h
      cases h
      exact .inr (.inr (.inl ⟨p, rest, rfl, hrst, rfl⟩))
    | high =>
      obtain ⟨u, hu⟩ := exists_execAll_next (s.cycleOps p) (s.beginStep p.rd rest)
      rw [step_cycle_of_execAll hs hrst hu] at h
      cases h
      exact .inr (.inr (.inr ⟨p, rest, u, rfl, hrst, hu, rfl⟩))

/-- What the beginning of a step, every operation, hardware reset and the front end's shift keep, every step keeps. -/
theorem step_keeps {P : State → Prop} (hbegin : ∀ u rd rest, P u → P (u.beginStep rd rest))
    (hexec : ∀ i u v, exec i u = .next v → P u → P v) (hreset : ∀ u, P u → P u.hardReset)
    (hshift : ∀ (u : State) (f : FrontEnd), P u → P { u with frontEnd := f }) {t : State} (h : step s = .next t)
    (hs : P s) : P t := by
  obtain ⟨-, rfl⟩ | ⟨_, rd, rest, i, -, -, hi⟩ | ⟨p, rest, -, -, rfl⟩ | ⟨p, rest, u, -, -, hu, rfl⟩ := step_cases h
  · exact hbegin s _ _ hs
  · exact hexec i _ t hi (hbegin s rd rest hs)
  · exact hreset _ (hbegin s _ _ hs)
  · exact hshift u _ (execAll_keeps hexec hu (hbegin s _ _ hs))

end step

end Sys2Proof.Machine
end

section
/-! PROOFS. The invariants through every step and along every run (10_state.md section 5), and who writes a frame that is
left behind. -/

namespace Sys2Proof.Machine

/-! ### Every step -/

theorem step_cfg {s t : State} (h : step s = .next t) : t.cfg = s.cfg :=
  step_keeps (P := fun u => u.cfg = s.cfg) (fun _ _ _ hu => hu) (fun _ _ _ hi hu => (exec_cfg hi).trans hu)
    (fun _ hu => hu) (fun _ _ hu => hu) h rfl

theorem BlockInv.step {s t : State} (hinv : BlockInv s) (h : step s = .next t) : BlockInv t :=
  step_keeps (fun _ rd rest hu => hu.beginStep rd rest) (fun _ _ _ hi hu => hu.exec hi) (fun _ hu => hu.hardReset)
    (fun _ _ hu => hu.of_outside rfl rfl rfl hu.selectedBound rfl rfl) h hinv

/-- Settles O49: every part of a step keeps the invariants and the parameters. -/
theorem everyStepKeepsTheInvariants : Obligations.EveryStepKeepsTheInvariants :=
  fun _ _ hinv h => ⟨hinv.step h, step_cfg h⟩

/-! ### Reset and the reachable states -/

theorem BlockInv.resetOf {c : Config} (hN : 1 ≤ c.N) (hM : 1 ≤ c.M) : BlockInv (State.resetOf c) :=
  State.Cleared.blockInv ⟨rfl, rfl, rfl, rfl, rfl⟩ ⟨hN, hM⟩

/-- Settles O48: hardware reset clears the block, under the opaque parameters of the machine as under any others. -/
theorem resetMeetsTheInvariants : Obligations.ResetMeetsTheInvariants := by
  refine ⟨.resetOf (Nat.succ_pos _) (Nat.succ_pos _), fun c hc => ?_⟩
  obtain ⟨hN, hM⟩ : 1 ≤ c.N ∧ 1 ≤ c.M := by simpa [Config.wellFormed] using hc
  exact .resetOf hN hM

theorem BlockInv.runsTo {n : Nat} {s t : State} (hinv : BlockInv s) (h : RunsTo n s t) : BlockInv t := by
  induction n generalizing s with
  | zero => rw [runsTo_zero_inv s h]; exact hinv
  | succ n ih =>
    obtain ⟨u, hu, ht⟩ := runsTo_succ_inv s h
    exact ih (hinv.step hu) ht

/-! ### Who writes a frame that is left behind -/

/-- From `s` to `t` the store and `activeIndex` stand, or the store is cleared. -/
def StoreStandsOrClears (s t : State) : Prop :=
  (t.store = s.store ∧ t.activeIndex = s.activeIndex) ∨ (t.store = FrameStore.empty ∧ t.activeIndex = 0)

/-- The frames below `activeIndex` are as they were, or the store is cleared (R20 item 10). -/
def KeepsFramesBelow (s t : State) : Prop :=
  (∀ i < s.activeIndex, SameFrame s t i) ∨ (t.store = FrameStore.empty ∧ t.activeIndex = 0)

section frames

variable {s t : State}

theorem exec_cmdStart_store (h : exec .cmdStart s = .next t) : StoreStandsOrClears s t := by
  cases h
  split
  · exact .inl ⟨rfl, rfl⟩
  · exact .inr ⟨rfl, rfl⟩

theorem exec_cmdStop_store (h : exec .cmdStop s = .next t) : StoreStandsOrClears s t := by
  rw [exec_cmdStop_eq] at h
  cases h
  exact .inl ⟨rfl, rfl⟩

/-- R141: of the commands only `CMD_START` writes the store, and it clears it. -/
theorem stepsIfAny_command_store {p : Pins} (h : StepsIfAny (commandOfPins p) s t) : StoreStandsOrClears s t := by
  have hcmd := stepsIfAny_commandOfPins h
  split_ifs at hcmd
  · exact exec_cmdStart_store hcmd
  · exact exec_cmdStop_store hcmd
  · cases hcmd; exact .inl ⟨rfl, rfl⟩
  · cases hcmd; exact .inl ⟨rfl, rfl⟩
  · exact .inl ⟨by rw [hcmd], by rw [hcmd]⟩

/-- A data-line edge leaves the store, or overflows. -/
theorem exec_sdaEdge_store {scl sda : Level} (h : exec (.sdaEdge scl sda) s = .next t) :
    t.store = s.store ∨ (t.store = FrameStore.empty ∧ t.activeIndex = 0) := by
  cases h
  split
  case isFalse => exact .inl rfl
  obtain ⟨-, ht⟩ | ⟨-, -, -, ht⟩ | ⟨-, -, ht⟩ | ⟨-, -, -, ht⟩ := s.dataEdge_cases scl sda <;> rw [ht]
  · exact .inl rfl
  · exact .inl rfl
  · obtain ⟨-, hs⟩ | ⟨-, -, hs⟩ | ⟨-, -, hs⟩ := s.startCondition_cases <;> rw [hs]
    · exact .inl rfl
    · exact .inl rfl
    · exact .inr ⟨s.overflowStart_store, s.overflowStart_activeIndex⟩
  · exact .inl rfl

/-- A clock writes no other frame than the active one. -/
theorem State.clockRise_sameFrame (s : State) (d : Level) {i : Nat} (hi : i ≠ s.activeIndex) :
    SameFrame s (s.clockRise d) i := by
  obtain ⟨-, ht⟩ | ⟨-, -, ht⟩ | ⟨-, hN, -, ht⟩ | ⟨-, hN, -, ht⟩ := s.clockRise_cases d <;> rw [ht]
  · exact sameFrame_of_store_eq rfl rfl i
  · exact sameFrame_of_store_eq rfl rfl i
  · exact (s.takeDataBit_writesOnlyActive d).sameFrame rfl hN hi
  · exact (s.takeAckBit_writesOnlyActive d).sameFrame rfl hN hi

theorem exec_sclRise_sameFrame {d : Level} (h : exec (.sclRise d) s = .next t) {i : Nat} (hi : i < s.activeIndex) :
    SameFrame s t i := by
  cases h
  split
  · exact s.clockRise_sameFrame d hi.ne
  · exact sameFrame_of_store_eq rfl rfl i

theorem SameFrame.trans {u : State} {i : Nat} (hst : SameFrame s t i) (htu : SameFrame t u i)
    (hcfg : t.cfg = s.cfg) : SameFrame s u i := by
  obtain ⟨helement, hbit, hcount⟩ := hst
  obtain ⟨helement', hbit', hcount'⟩ := htu
  refine ⟨fun k hk => ?_, hbit'.trans hbit, hcount'.trans hcount⟩
  obtain ⟨hbyte, hack⟩ := helement k hk
  obtain ⟨hbyte', hack'⟩ := helement' k (by rwa [hcfg])
  exact ⟨hbyte'.trans hbyte, hack'.trans hack⟩

theorem KeepsFramesBelow.of_store_eq (hstore : t.store = s.store) (hcfg : t.cfg = s.cfg) : KeepsFramesBelow s t :=
  .inl fun i _ => sameFrame_of_store_eq hstore hcfg i

theorem StoreStandsOrClears.keepsFramesBelow (h : StoreStandsOrClears s t) (hcfg : t.cfg = s.cfg) :
    KeepsFramesBelow s t :=
  h.imp_left fun ⟨hstore, _⟩ i _ => sameFrame_of_store_eq hstore hcfg i

theorem exec_keepsFramesBelow {i : Instr} (h : exec i s = .next t) : KeepsFramesBelow s t := by
  have hcfg : t.cfg = s.cfg := exec_cfg h
  cases i with
  | sdaEdge scl sda => exact (exec_sdaEdge_store h).imp_left fun hstore i _ => sameFrame_of_store_eq hstore hcfg i
  | sclRise d => exact .inl fun i hi => exec_sclRise_sameFrame h hi
  | cmdStart => exact (exec_cmdStart_store h).keepsFramesBelow hcfg
  | cmdStop => exact (exec_cmdStop_store h).keepsFramesBelow hcfg
  | nop => cases h; exact .of_store_eq rfl rfl
  | cmdSelNext => cases h; exact .of_store_eq rfl rfl
  | cmdSelPrev => cases h; exact .of_store_eq rfl rfl
  | getFrameCount => cases h; exact .of_store_eq rfl rfl
  | getBusState => cases h; exact .of_store_eq rfl rfl
  | getFrame => cases h; exact .of_store_eq rfl rfl

theorem stepsIfAny_cfg {o : Option Instr} (h : StepsIfAny o s t) : t.cfg = s.cfg := by
  cases o with
  | none => rw [stepsIfAny_none.1 h]
  | some i => exact exec_cfg h

/-- The first place of a cycle writes the active frame at most. -/
theorem stepsIfAny_sclRiseEvent_sameFrame (h : StepsIfAny s.sclRiseEvent s t) {i : Nat} (hi : i < s.activeIndex) :
    SameFrame s t i := by
  rw [State.sclRiseEvent, stepsIfAny_ite] at h
  split at h
  · exact exec_sclRise_sameFrame h hi
  · cases h; exact sameFrame_of_store_eq rfl rfl i

/-- The second place of a cycle, whatever the first did, leaves the store or overflows. -/
theorem stepsIfAny_sdaEdgeEvent_store {u : State} (h : StepsIfAny u.sdaEdgeEvent s t) :
    t.store = s.store ∨ (t.store = FrameStore.empty ∧ t.activeIndex = 0) := by
  rw [State.sdaEdgeEvent, stepsIfAny_ite] at h
  split at h
  · exact exec_sdaEdge_store h
  · cases h; exact .inl rfl

/-- The clock comes first in a cycle (R168), so nothing is written after an overflow or a `CMD_START` has cleared the
store. -/
theorem execAll_cycleOps_keepsFramesBelow {p : Pins} (h : execAll (s.cycleOps p) s = .next t) :
    KeepsFramesBelow s t := by
  obtain ⟨s1, hscl⟩ := exists_stepsIfAny s.sclRiseEvent s
  obtain ⟨s2, hsda⟩ := exists_stepsIfAny s.sdaEdgeEvent s1
  obtain ⟨s3, hcmd⟩ := exists_stepsIfAny (commandOfPins p) s2
  rw [execAll_cycleOps hscl hsda hcmd] at h
  cases h
  obtain ⟨hstore3, hact3⟩ | hclear := stepsIfAny_command_store hcmd
  · obtain hstore2 | ⟨hstore2, hact2⟩ := stepsIfAny_sdaEdgeEvent_store hsda
    · have hcfg : t.cfg = s1.cfg := (stepsIfAny_cfg hcmd).trans (stepsIfAny_cfg hsda)
      refine .inl fun i hi => (stepsIfAny_sclRiseEvent_sameFrame hscl hi).trans ?_ (stepsIfAny_cfg hscl)
      exact sameFrame_of_store_eq (hstore3.trans hstore2) hcfg i
    · exact .inr ⟨hstore3.trans hstore2, hact3.trans hact2⟩
  · exact .inr hclear

/-- R20 item 10. -/
theorem step_keepsFramesBelow (h : step s = .next t) : KeepsFramesBelow s t := by
  obtain ⟨-, rfl⟩ | ⟨_, rd, rest, i, -, -, hi⟩ | ⟨p, rest, -, -, rfl⟩ | ⟨p, rest, u, -, -, hu, rfl⟩ := step_cases h
  · exact .of_store_eq rfl rfl
  · exact exec_keepsFramesBelow (s := s.beginStep rd rest) hi
  · exact .inr ⟨rfl, rfl⟩
  · have hkeeps : KeepsFramesBelow (s.beginStep p.rd rest) u := execAll_cycleOps_keepsFramesBelow (p := p) hu
    exact hkeeps

end frames

/-- Settles O50: R20 holds at reset and every step keeps it; the ack clock ends at bit cursor 0, and the clock comes before
whatever clears the store in a step. -/
theorem reachableStatesMeetTheInvariants : Obligations.ReachableStatesMeetTheInvariants := by
  intro c q n s hc hrun
  obtain ⟨hN, hM⟩ : 1 ≤ c.N ∧ 1 ≤ c.M := by simpa [Config.wellFormed] using hc
  have hstart : BlockInv { State.resetOf c with stimuli := q } :=
    State.Cleared.blockInv ⟨rfl, rfl, rfl, rfl, rfl⟩ ⟨hN, hM⟩
  have hinv : BlockInv s := hstart.runsTo hrun
  refine ⟨hinv, fun d t h h8 hcap hb => ?ackClock, fun t h => step_keepsFramesBelow h⟩
  case ackClock =>
    have hlt : s.activeByte < s.cfg.N := hinv.activeByte_lt (le_trans (by decide) h8)
    rw [exec_sclRise_ackBit hcap hb d hlt h8] at h
    cases h
    calc (s.takeAckBit d).bitIndexOf s.activeIndex
        = 0 := (s.takeAckBit_bitIndexOf d _).trans (if_pos rfl)
      _ < 8 := by decide

end Sys2Proof.Machine
end

section
/-! PROOFS. The step (00_scope.md section 5, 70_reset_and_hazards.md): what it answers for a word, for none, and for a
sample cycle in reset; that only a reserved word stops it; and what the front end holds two cycles later. -/

namespace Sys2Proof.Machine

/-- Settles O6: beginning the step drops the word and presents its read-port inputs, and the decoded operation follows. -/
theorem stepExecutesTheDecodedWord : Obligations.StepExecutesTheDecodedWord :=
  fun _ _ _ _ _ hs hw => step_word_of_decode hs hw

/-- Settles O8: with no stimulus the step only begins, its read-port inputs standing. -/
theorem stepWithNothingToDoIsNop : Obligations.StepWithNothingToDoIsNop := by
  intro s hs
  rw [step_of_nil hs, ← hs]
  rfl

/-- Settles O45: the cycle begins and is held in hardware reset. -/
theorem resetPinHoldsTheBlockInReset : Obligations.ResetPinHoldsTheBlockInReset :=
  fun _ _ _ hs hrst => step_cycle_inReset hs hrst

/-- Settles O9: every stimulus but a reserved word is made of operations that complete. -/
theorem everyOperationCompletesAndNoStepFaults : Obligations.EveryOperationCompletesAndNoStepFaults := by
  refine ⟨exists_exec_next, fun s => ?_⟩
  match hs : s.stimuli with
  | [] => exact .inl ⟨_, step_of_nil hs⟩
  | .word w rd :: rest =>
    cases hw : decodeWord w with
    | instr i =>
      rw [step_word_of_decode hs hw]
      exact .inl (exists_exec_next i _)
    | reserved why => exact .inr ⟨w, rd, rest, why, rfl, hw, step_word_of_reserved hs hw⟩
  | .cycle p :: rest =>
    cases hrst : p.rstN with
    | low => exact .inl ⟨_, step_cycle_inReset hs hrst⟩
    | high =>
      obtain ⟨u, hu⟩ := exists_execAll_next (s.cycleOps p) (s.beginStep p.rd rest)
      exact .inl ⟨_, step_cycle_of_execAll hs hrst hu⟩

theorem execAll_stimuli {is : List Instr} {s t : State} (h : execAll is s = .next t) : t.stimuli = s.stimuli :=
  execAll_keeps (P := fun u => u.stimuli = s.stimuli) (fun _ _ _ hi hu => (exec_surroundings hi).stimuli.trans hu) h rfl

/-- A cycle out of reset shifts the front end, whatever operations fall in it (R22). -/
theorem step_cycle_frontEnd {s t : State} {p : Pins} {rest : List Stimulus} (hs : s.stimuli = .cycle p :: rest)
    (hrst : p.rstN = .high) (h : step s = .next t) :
    t.frontEnd = s.frontEnd.shift p.sclI p.sdaI ∧ t.stimuli = rest := by
  obtain ⟨u, hu⟩ := exists_execAll_next (s.cycleOps p) (s.beginStep p.rd rest)
  rw [step_cycle_of_execAll hs hrst hu] at h
  cases h
  exact ⟨rfl, execAll_stimuli hu⟩

/-- Settles O47: two shifts bring the first cycle's pins, and the level sampled before them, to where events are read. -/
theorem frontEndSeesThePinsTwoCyclesLater : Obligations.FrontEndSeesThePinsTwoCyclesLater := by
  intro s t p q rest hp hq hs hrun
  obtain ⟨u, hu, hrun'⟩ := runsTo_succ_inv s hrun
  obtain ⟨v, hv, hrun''⟩ := runsTo_succ_inv u hrun'
  obtain rfl := runsTo_zero_inv v hrun''
  obtain ⟨hfu, hsu⟩ := step_cycle_frontEnd hs hp hu
  obtain ⟨hft, -⟩ := step_cycle_frontEnd hsu hq hv
  rw [hfu] at hft
  exact ⟨hft, by rw [State.sdaEdgeEvent, hft]; rfl, by rw [State.sclRiseEvent, hft]; rfl⟩

end Sys2Proof.Machine
end

section
/-! PROOFS. The frames of the two bus events, the noted conditions (60_exceptions.md), and the writers of `activeIndex`. -/

namespace Sys2Proof.Machine

/-! ### `SDA_EDGE` -/

/-- Settles O11: the row of R91 for a stop condition. -/
theorem stopConditionReturnsToIdle : Obligations.StopConditionReturnsToIdle :=
  fun _ hcap hb => exec_stopCondition hcap hb

/-- Settles O15: the overflow clears the block under both readings of D6, and this one then ends `Started` and primed. -/
theorem overflowUnderTheAlternativeReadingEndsStarted : Obligations.OverflowUnderTheAlternativeReadingEndsStarted := by
  intro s hov hcap hp hM
  rw [exec_startCondition hcap, State.startCondition_eq_overflowStart hp hM, State.overflowStart, if_pos hov]
  rfl

/-- What a data-line edge that does not overflow leaves of the Frame Store and the selection: all of it. -/
theorem State.dataEdge_store_selection {s : State} {scl sda : Level}
    (h : ¬(scl = .high ∧ sda = .low ∧ s.primed = true ∧ s.cfg.M ≤ s.activeIndex + 1)) :
    (s.dataEdge scl sda).store = s.store ∧ (s.dataEdge scl sda).selectedIndex = s.selectedIndex := by
  obtain ⟨-, ht⟩ | ⟨-, -, -, ht⟩ | ⟨hc, hd, ht⟩ | ⟨-, -, -, ht⟩ := s.dataEdge_cases scl sda <;> rw [ht]
  · exact ⟨rfl, rfl⟩
  · exact ⟨rfl, rfl⟩
  · obtain ⟨-, hs⟩ | ⟨-, -, hs⟩ | ⟨hp, hM, -⟩ := s.startCondition_cases
    · rw [hs]; exact ⟨rfl, rfl⟩
    · rw [hs]; exact ⟨rfl, rfl⟩
    · exact absurd ⟨hc, hd, hp, hM⟩ h
  · exact ⟨rfl, rfl⟩

theorem State.dataEdge_reply (s : State) (scl sda : Level) : (s.dataEdge scl sda).obs.reply = s.obs.reply := by
  obtain ⟨-, ht⟩ | ⟨-, -, -, ht⟩ | ⟨-, -, ht⟩ | ⟨-, -, -, ht⟩ := s.dataEdge_cases scl sda <;> rw [ht]
  · rfl
  · rfl
  · obtain ⟨-, hs⟩ | ⟨-, -, hs⟩ | ⟨-, -, hs⟩ := s.startCondition_cases <;> rw [hs]
    rw [State.overflowStart_obs]

/-- Settles O19: while capturing the edge writes the Bus State, priming, `activeIndex` and the observer, and the rest only
in an overflow; while `Stopped` it writes nothing. -/
theorem dataEdgeWritesNoFrame : Obligations.DataEdgeWritesNoFrame := by
  intro s t scl sda h
  obtain ⟨hcfg, hfront, hrd, hstim⟩ := exec_surroundings h
  cases hcap : s.capturing with
  | false =>
    rw [exec_sdaEdge_stopped hcap] at h
    cases h
    exact ⟨rfl, hcap, rfl, rfl, rfl, rfl, fun _ => ⟨rfl, fun _ _ => ⟨rfl, rfl⟩, fun _ => ⟨rfl, rfl⟩⟩⟩
  | true =>
    rw [exec_sdaEdge_capturing hcap] at h
    cases h
    refine ⟨hcfg, (s.dataEdge_capturing scl sda).trans hcap, hfront, hrd, hstim, s.dataEdge_reply scl sda, fun hno => ?_⟩
    obtain ⟨hstore, hsel⟩ := State.dataEdge_store_selection (scl := scl) (sda := sda) fun h => hno ⟨rfl, h⟩
    simp [State.byteAt, State.ackAt, State.bitIndexOf, State.byteIndexOf, State.elementKey, hstore, hsel, hcfg]

/-! ### `SCL_RISE` -/

theorem State.clockRise_reply (s : State) (d : Level) : (s.clockRise d).obs.reply = s.obs.reply := by
  obtain ⟨-, ht⟩ | ⟨-, -, ht⟩ | ⟨-, -, -, ht⟩ | ⟨-, -, -, ht⟩ := s.clockRise_cases d <;> rw [ht] <;> rfl

/-- Settles O28: a clock writes the element under assembly, the cursors of its frame, and a note. -/
theorem clockEdgeWritesOnlyTheActiveElement : Obligations.ClockEdgeWritesOnlyTheActiveElement := by
  intro s t d h
  obtain ⟨hredraw, hredraws⟩ := exec_sameRedraw h nofun
  cases hcap : s.capturing with
  | false =>
    rw [exec_sclRise_stopped hcap] at h
    cases h
    exact ⟨rfl, rfl, rfl, rfl, fun _ _ => ⟨rfl, rfl⟩, fun _ _ => ⟨rfl, rfl⟩⟩
  | true =>
    rw [exec_sclRise, if_pos hcap] at h
    cases h
    have hwrites := s.clockRise_writesOnlyActive d
    exact ⟨s.clockRise_outside d, hredraw, hredraws, s.clockRise_reply d, hwrites.elements, hwrites.cursors⟩

/-! ### Notes -/

theorem State.startCondition_noted (s : State) : s.startCondition.obs.noted =
    s.obs.noted ++ if s.primed = true ∧ s.cfg.M ≤ s.activeIndex + 1 then [.capacityOverflow] else [] := by
  obtain ⟨hp, hs⟩ | ⟨hp, hM, hs⟩ | ⟨hp, hM, hs⟩ := s.startCondition_cases <;> rw [hs]
  · rw [if_neg (by simp [hp]), List.append_nil]
  · rw [if_neg (by omega), List.append_nil]
  · rw [if_pos ⟨hp, hM⟩, State.overflowStart_obs]

theorem State.clockRise_noted (s : State) (d : Level) : (s.clockRise d).obs.noted =
    s.obs.noted ++ if s.busState = .started ∧ s.cfg.N ≤ s.byteIndexOf s.activeIndex then [.frameFull] else [] := by
  obtain ⟨hb, ht⟩ | ⟨hb, hN, ht⟩ | ⟨-, hN, -, ht⟩ | ⟨-, hN, -, ht⟩ := s.clockRise_cases d <;> rw [ht]
  · rw [if_neg (by simp [hb]), List.append_nil]
  · rw [if_pos ⟨hb, hN⟩, State.note_obs]
  · rw [if_neg fun h => absurd h.2 hN.not_ge, List.append_nil]; rfl
  · rw [if_neg fun h => absurd h.2 hN.not_ge, List.append_nil]; rfl

/-- X2 with the clock low, X1 by a start condition that overflows, and none by a stop condition. -/
theorem State.dataEdge_noted (s : State) (scl sda : Level) : (s.dataEdge scl sda).obs.noted =
    s.obs.noted ++ (match scl, sda with
      | .low, _ => [.spuriousEdge]
      | .high, .low => if s.primed = true ∧ s.cfg.M ≤ s.activeIndex + 1 then [.capacityOverflow] else []
      | .high, .high => []) := by
  obtain ⟨rfl, ht⟩ | ⟨rfl, rfl, -, ht⟩ | ⟨rfl, rfl, ht⟩ | ⟨rfl, rfl, -, ht⟩ := s.dataEdge_cases scl sda <;> rw [ht]
  · rfl
  · exact (List.append_nil _).symm
  · exact s.startCondition_noted
  · exact (List.append_nil _).symm

/-- Settles O42: X1 and X2 are noted by a data-line edge, X3 by `CMD_START`, X4 by a clock, each while capturing, and
nothing else notes. -/
theorem conditionsAreNotedExactlyWhenTheyHold : Obligations.ConditionsAreNotedExactlyWhenTheyHold := by
  intro i s t h
  cases i with
  | sdaEdge scl sda =>
    cases hcap : s.capturing with
    | false =>
      rw [exec_sdaEdge_stopped hcap] at h
      cases h
      cases scl <;> cases sda <;> simp
    | true =>
      rw [exec_sdaEdge_capturing hcap] at h
      cases h
      rw [State.dataEdge_noted]
      cases scl <;> cases sda <;> simp
  | sclRise d =>
    cases hcap : s.capturing with
    | false => rw [exec_sclRise_stopped hcap] at h; cases h; simp
    | true =>
      rw [exec_sclRise, if_pos hcap] at h
      cases h
      simpa using s.clockRise_noted d
  | cmdStart =>
    cases hcap : s.capturing with
    | false => rw [exec_cmdStart_stopped hcap] at h; cases h; simp
    | true => rw [exec_cmdStart_capturing hcap] at h; cases h; simp
  | cmdStop => rw [exec_cmdStop_eq] at h; cases h; exact (List.append_nil _).symm
  | nop => cases h; exact (List.append_nil _).symm
  | cmdSelNext => cases h; exact (List.append_nil _).symm
  | cmdSelPrev => cases h; exact (List.append_nil _).symm
  | getFrameCount => cases h; exact (List.append_nil _).symm
  | getBusState => cases h; exact (List.append_nil _).symm
  | getFrame => cases h; exact (List.append_nil _).symm

/-! ### Who writes `activeIndex` -/

/-- R13, R85, R86: of the data-line edges only a start condition while primed moves `activeIndex`. -/
theorem State.dataEdge_activeIndex (s : State) (scl sda : Level) :
    (s.dataEdge scl sda).activeIndex = s.activeIndex ∨
      (scl = .high ∧ sda = .low ∧ s.primed = true ∧
        ((s.activeIndex + 1 < s.cfg.M ∧ (s.dataEdge scl sda).activeIndex = s.activeIndex + 1) ∨
          (s.cfg.M ≤ s.activeIndex + 1 ∧ (s.dataEdge scl sda).activeIndex = 0 ∧
            (s.dataEdge scl sda).store = FrameStore.empty))) := by
  obtain ⟨-, ht⟩ | ⟨-, -, -, ht⟩ | ⟨hc, hd, ht⟩ | ⟨-, -, -, ht⟩ := s.dataEdge_cases scl sda <;> rw [ht]
  · exact .inl rfl
  · exact .inl rfl
  · obtain ⟨-, hs⟩ | ⟨hp, hM, hs⟩ | ⟨hp, hM, hs⟩ := s.startCondition_cases <;> rw [hs]
    · exact .inl rfl
    · exact .inr ⟨hc, hd, hp, .inl ⟨hM, rfl⟩⟩
    · exact .inr ⟨hc, hd, hp, .inr ⟨hM, s.overflowStart_activeIndex, s.overflowStart_store⟩⟩
  · exact .inl rfl

/-- Settles O43: the start condition while primed and `CMD_START` from `Stopped` are the only writers. -/
theorem activeIndexAdvancesByOneOrReturnsToZero : Obligations.ActiveIndexAdvancesByOneOrReturnsToZero := by
  intro i s t h hne
  cases i with
  | sdaEdge scl sda =>
    cases hcap : s.capturing with
    | false => rw [exec_sdaEdge_stopped hcap] at h; cases h; exact absurd rfl hne
    | true =>
      rw [exec_sdaEdge_capturing hcap] at h
      cases h
      obtain hsame | ⟨rfl, rfl, hp, hmove⟩ := s.dataEdge_activeIndex scl sda
      · exact absurd hsame hne
      · exact .inl ⟨rfl, rfl, hp, hmove⟩
  | sclRise d =>
    cases hcap : s.capturing with
    | false => rw [exec_sclRise_stopped hcap] at h; cases h; exact absurd rfl hne
    | true =>
      rw [exec_sclRise, if_pos hcap] at h
      cases h
      exact absurd (congrArg State.activeIndex (s.clockRise_outside d) :) hne
  | cmdStart =>
    cases hcap : s.capturing with
    | false =>
      rw [exec_cmdStart_stopped hcap] at h
      cases h
      exact .inr ⟨rfl, rfl, rfl, rfl⟩
    | true => rw [exec_cmdStart_capturing hcap] at h; cases h; exact absurd rfl hne
  | cmdStop => rw [exec_cmdStop_eq] at h; cases h; exact absurd rfl hne
  | nop => cases h; exact absurd rfl hne
  | cmdSelNext => cases h; exact absurd rfl hne
  | cmdSelPrev => cases h; exact absurd rfl hne
  | getFrameCount => cases h; exact absurd rfl hne
  | getBusState => cases h; exact absurd rfl hne
  | getFrame => cases h; exact absurd rfl hne

/-- Settles O40: the answer is a function of the block's state, the observer apart, and is all that a query writes. -/
theorem queriesHaveNoSideEffect : Obligations.QueriesHaveNoSideEffect := by
  rintro i s t (rfl | rfl | rfl) h
  · rw [exec_getFrameCount] at h; cases h; exact ⟨rfl, rfl⟩
  · rw [exec_getBusState] at h; cases h; exact ⟨rfl, rfl⟩
  · rw [exec_getFrame] at h; cases h; exact ⟨rfl, rfl⟩

end Sys2Proof.Machine
end

section
/-! PROOFS. Two runs that differ in what no meaning of the block reads: reading out never disturbs decoding
(42_frame_store.md section 3), and a sample cycle does what the words of its operations do (70_reset_and_hazards.md
section 3). -/

namespace Sys2Proof.Machine

/-! ### Blocks that are alike -/

/-- How far the selections and the observers of two blocks may differ so that every operation keeps them that near. -/
structure Tolerance where
  sel : Nat → Nat → Prop
  obs : Observed → Observed → Prop
  sel_zero : sel 0 0
  sel_next : ∀ a b m n, sel a b → m = n → sel (min (a + 1) m) (min (b + 1) n)
  sel_prev : ∀ a b, sel a b → sel (a - 1) (b - 1)
  obs_note : ∀ o o' x, obs o o' → obs { o with noted := o.noted ++ [x] } { o' with noted := o'.noted ++ [x] }
  obs_pulse : ∀ o o', obs o o' →
    obs { o with redraw := true, redraws := o.redraws + 1 } { o' with redraw := true, redraws := o'.redraws + 1 }
  obs_reply : ∀ o o' r r', obs o o' → obs { o with reply := r } { o' with reply := r' }

/-- The same block, within a tolerance; front end, read-port inputs and stimuli may be any. -/
structure Alike (T : Tolerance) (s s' : State) : Prop where
  cfg         : s.cfg = s'.cfg
  capturing   : s.capturing = s'.capturing
  busState    : s.busState = s'.busState
  primed      : s.primed = s'.primed
  activeIndex : s.activeIndex = s'.activeIndex
  store       : s.store = s'.store
  sel         : T.sel s.selectedIndex s'.selectedIndex
  obs         : T.obs s.obs s'.obs

namespace Alike

variable {T : Tolerance} {s s' : State} (h : Alike T s s')
include h

theorem note (x : Condition) : Alike T (s.note x) (s'.note x) := { h with obs := T.obs_note _ _ x h.obs }

theorem answer (r r' : Reply) : Alike T (s.answer r) (s'.answer r') := { h with obs := T.obs_reply _ _ _ _ h.obs }

theorem fsReset : Alike T s.fsReset s'.fsReset :=
  { h with busState := rfl, primed := rfl, activeIndex := rfl, store := rfl, sel := T.sel_zero }

theorem overflowStart : Alike T s.overflowStart s'.overflowStart := by
  have hreset := (h.note .capacityOverflow).fsReset
  rw [State.overflowStart, State.overflowStart, h.cfg]
  split
  · exact { hreset with busState := rfl, primed := rfl }
  · exact hreset

theorem startCondition : Alike T s.startCondition s'.startCondition := by
  have hkind : s.startKind = s'.startKind := by simp only [State.startKind, h.primed, h.activeIndex, h.cfg]
  rw [State.startCondition, State.startCondition, hkind]
  cases s'.startKind with
  | priming => exact { h with busState := rfl, primed := rfl }
  | overflow => exact h.overflowStart
  | nextFrame => exact { h with busState := rfl, activeIndex := congrArg (· + 1) h.activeIndex }

theorem stopCondition : Alike T s.stopCondition s'.stopCondition :=
  { h with busState := rfl, obs := T.obs_pulse _ _ h.obs }

theorem dataEdge (scl sda : Level) : Alike T (s.dataEdge scl sda) (s'.dataEdge scl sda) := by
  rw [State.dataEdge, State.dataEdge, h.busState]
  cases edgeKind scl sda s'.busState with
  | spurious => exact h.note _
  | stop => exact h.stopCondition
  | start => exact h.startCondition
  | nothing => exact h

theorem takeDataBit (d : Level) : Alike T (s.takeDataBit d) (s'.takeDataBit d) :=
  { h with
    store := by
      simp [State.takeDataBit, State.activeBit, State.activeByte, State.byteAt, State.bitIndexOf, State.byteIndexOf,
        State.elementKey, h.cfg, h.activeIndex, h.store] }

theorem takeAckBit (d : Level) : Alike T (s.takeAckBit d) (s'.takeAckBit d) :=
  { h with
    store := by
      simp [State.takeAckBit, State.activeByte, State.byteIndexOf, State.elementKey, h.cfg, h.activeIndex, h.store] }

theorem clockRise (d : Level) : Alike T (s.clockRise d) (s'.clockRise d) := by
  have hkind : s.clockKind = s'.clockKind := by
    have hbyte : s.activeByte = s'.activeByte := by
      rw [State.activeByte, State.activeByte, State.byteIndexOf, h.activeIndex, h.store]; rfl
    have hbit : s.activeBit = s'.activeBit := by
      rw [State.activeBit, State.activeBit, State.bitIndexOf, h.activeIndex, h.store]; rfl
    rw [State.clockKind, State.clockKind, h.busState, h.cfg, hbyte, hbit]
  rw [State.clockRise, State.clockRise, hkind]
  cases s'.clockKind with
  | ignored => exact h
  | full => exact h.note _
  | dataBit => exact h.takeDataBit d
  | ackBit => exact h.takeAckBit d

/-- Every operation does the same to blocks that are alike. -/
theorem exec {i : Instr} {t t' : State} (ht : exec i s = .next t) (ht' : Machine.exec i s' = .next t') :
    Alike T t t' := by
  cases i with
  | nop => cases ht; cases ht'; exact h
  | sdaEdge scl sda =>
    rw [exec_sdaEdge] at ht ht'
    rw [h.capturing] at ht
    cases ht
    cases ht'
    split
    · exact h.dataEdge scl sda
    · exact h
  | sclRise d =>
    rw [exec_sclRise] at ht ht'
    rw [h.capturing] at ht
    cases ht
    cases ht'
    split
    · exact h.clockRise d
    · exact h
  | cmdStart =>
    rw [exec_cmdStart] at ht ht'
    rw [h.capturing] at ht
    cases ht
    cases ht'
    split
    · exact h.note _
    · exact { h.fsReset with capturing := rfl }
  | cmdStop =>
    rw [exec_cmdStop_eq] at ht ht'
    cases ht
    cases ht'
    exact { h with capturing := rfl }
  | cmdSelNext =>
    rw [exec_cmdSelNext] at ht ht'
    cases ht
    cases ht'
    exact { h with sel := T.sel_next _ _ _ _ h.sel h.activeIndex }
  | cmdSelPrev => cases ht; cases ht'; exact { h with sel := T.sel_prev _ _ h.sel }
  | getFrameCount => cases ht; cases ht'; exact h.answer _ _
  | getBusState => cases ht; cases ht'; exact h.answer _ _
  | getFrame => cases ht; cases ht'; exact h.answer _ _

end Alike

/-! ### Reading out -/

/-- The decoder does not see the selection or the last reply. -/
def Tolerance.readOut : Tolerance where
  sel _ _ := True
  obs o o' := { o with reply := none } = { o' with reply := none }
  sel_zero := trivial
  sel_next _ _ _ _ _ _ := trivial
  sel_prev _ _ _ := trivial
  obs_note _ _ x h := congrArg (fun o : Observed => { o with noted := o.noted ++ [x] }) h
  obs_pulse _ _ h := congrArg (fun o : Observed => { o with redraw := true, redraws := o.redraws + 1 }) h
  obs_reply _ _ _ _ := id

theorem decoderPart_eq_iff {s s' : State} : s.decoderPart = s'.decoderPart ↔
    Alike .readOut s s' ∧ s.frontEnd = s'.frontEnd ∧ s.stimuli = s'.stimuli := by
  constructor
  · intro h
    simp only [State.decoderPart, State.mk.injEq] at h
    obtain ⟨hcfg, hcap, hbus, hp, hact, -, hstore, hfront, -, hstim, hobs⟩ := h
    exact ⟨⟨hcfg, hcap, hbus, hp, hact, hstore, trivial, hobs⟩, hfront, hstim⟩
  · rintro ⟨⟨hcfg, hcap, hbus, hp, hact, hstore, -, hobs⟩, hfront, hstim⟩
    simp only [State.decoderPart, State.mk.injEq]
    exact ⟨hcfg, hcap, hbus, hp, hact, trivial, hstore, hfront, trivial, hstim, hobs⟩

/-- What an operation does to the decoder's part depends on the decoder's part alone. -/
theorem exec_decoderPart {i : Instr} {s s' t t' : State} (h : s.decoderPart = s'.decoderPart) (ht : exec i s = .next t)
    (ht' : exec i s' = .next t') : t.decoderPart = t'.decoderPart := by
  obtain ⟨halike, hfront, hstim⟩ := decoderPart_eq_iff.1 h
  have hsur := exec_surroundings ht
  have hsur' := exec_surroundings ht'
  refine decoderPart_eq_iff.2 ⟨halike.exec ht ht', ?_, ?_⟩
  · rw [hsur.frontEnd, hsur'.frontEnd, hfront]
  · rw [hsur.stimuli, hsur'.stimuli, hstim]

/-- A query or a selection command leaves the decoder's part (R47, R127). -/
theorem exec_readOut_decoderPart {i : Instr} {s t : State} (hi : isReadOut i = true) (h : exec i s = .next t) :
    t.decoderPart = s.decoderPart := by
  cases i with
  | cmdSelNext => cases h; rfl
  | cmdSelPrev => cases h; rfl
  | getFrameCount => cases h; rfl
  | getBusState => cases h; rfl
  | getFrame => cases h; rfl
  | nop => cases hi
  | sdaEdge => cases hi
  | sclRise => cases hi
  | cmdStart => cases hi
  | cmdStop => cases hi

/-- Settles O51: along the two runs the decoder's parts stay equal, a read-out operation being a step of the first run
only. -/
theorem readOutNeverDisturbsDecoding : Obligations.ReadOutNeverDisturbsDecoding := by
  intro is
  induction is with
  | nil => exact fun s s' h => ⟨s, s', rfl, rfl, h⟩
  | cons i is ih =>
    intro s s' h
    obtain ⟨u, hu⟩ := exists_exec_next i s
    rw [execAll_cons_next s hu]
    cases hi : isReadOut i with
    | true =>
      rw [List.filter_cons_of_neg (by simp [hi])]
      exact ih u s' ((exec_readOut_decoderPart hi hu).trans h)
    | false =>
      obtain ⟨u', hu'⟩ := exists_exec_next i s'
      rw [List.filter_cons_of_pos (by simp [hi]), execAll_cons_next s' hu']
      exact ih u u' (exec_decoderPart h hu hu')

/-! ### Cycles and traces -/

/-- The block and its count of redraw pulses, not what the latest step showed. -/
def Tolerance.steps : Tolerance where
  sel := Eq
  obs o o' := o.redraws = o'.redraws
  sel_zero := rfl
  sel_next _ _ _ _ h hn := by rw [h, hn]
  sel_prev _ _ h := congrArg (· - 1) h
  obs_note _ _ _ h := h
  obs_pulse _ _ h := congrArg (· + 1) h
  obs_reply _ _ _ _ h := h

/-- The words of operations, one step each, do what the operations do in turn. -/
theorem exists_runsTo_words {is : List Instr} {rd : ReadSel} {s s' t : State} (h : Alike .steps s s')
    (hstim : s'.stimuli = is.map fun i => .word (encode i) rd) (ht : execAll is s = .next t) :
    ∃ u, RunsTo is.length s' u ∧ Alike .steps t u := by
  induction is generalizing s s' with
  | nil => cases ht; exact ⟨s', runsTo_zero s', h⟩
  | cons i is ih =>
    obtain ⟨s1, hs1, ht⟩ := execAll_cons_inv ht
    obtain ⟨u1, hu1⟩ := exists_exec_next i (s'.beginStep rd (is.map fun i => .word (encode i) rd))
    have hbegun : Alike .steps s (s'.beginStep rd (is.map fun i => .word (encode i) rd)) := { h with obs := h.obs }
    have hstep : step s' = .next u1 := (step_word_of_decode hstim (decodeWord_encode i)).trans hu1
    obtain ⟨u, hu, halike⟩ := ih (hbegun.exec hs1 hu1) (exec_surroundings hu1).stimuli ht
    exact ⟨u, runsTo_succ s' hstep hu, halike⟩

/-- Settles O53: both run the cycle's operations in their order; the cycle then shifts the front end. -/
theorem sampleCycleRefinesTheTraceOfItsOperations : Obligations.SampleCycleRefinesTheTraceOfItsOperations := by
  intro s p hrst ops
  obtain ⟨v, hv⟩ := exists_execAll_next ops (State.beginStep { s with stimuli := [.cycle p] } p.rd [])
  have hstep : step { s with stimuli := [.cycle p] } = .next { v with frontEnd := s.frontEnd.shift p.sclI p.sdaI } :=
    step_cycle_of_execAll rfl hrst hv
  have hstart : Alike .steps (State.beginStep { s with stimuli := [.cycle p] } p.rd [])
      { s with stimuli := ops.map fun i => .word (encode i) p.rd } := ⟨rfl, rfl, rfl, rfl, rfl, rfl, rfl, rfl⟩
  obtain ⟨u, hu, halike⟩ := exists_runsTo_words hstart rfl hv
  exact ⟨_, u, hstep, hu, halike.cfg, halike.capturing, halike.busState, halike.primed, halike.activeIndex, halike.sel,
    halike.store, halike.obs⟩

end Sys2Proof.Machine
end

section
/-! PROOFS. `M + 1` start conditions (40_bus_state_machine.md section 2, overflow): the frames open one after another, and
the one too many clears the store. -/

namespace Sys2Proof.Machine

theorem execAll_append_next {is js : List Instr} {s t : State} (h : execAll is s = .next t) :
    execAll (is ++ js) s = execAll js t := by
  induction is generalizing s with
  | nil => cases h; rfl
  | cons i is ih =>
    obtain ⟨u, hu, ht⟩ := execAll_cons_inv h
    rw [List.cons_append, execAll_cons_next s hu]
    exact ih ht

/-- One transaction without a clock: a start condition, followed by a stop condition or not. -/
def startBlock (stops : Bool) : List Instr := if stops then [busStart, busStop] else [busStart]

/-- While capturing, a stop condition or its absence changes no more than the Bus State and the pulses. -/
theorem exec_busStop {s : State} (hcap : s.capturing = true) :
    ∃ t, exec busStop s = .next t ∧ { t with busState := s.busState, obs := s.obs } = s := by
  cases hb : s.busState with
  | idle => exact ⟨s, exec_dataHigh_idle hcap hb, by rw [← hb]⟩
  | started => exact ⟨s.stopCondition, exec_stopCondition hcap hb, by rw [← hb]; rfl⟩

/-- A session that has seen start conditions and no clock: frame `k` is active and the store is empty. -/
structure OpenWithoutClock (c : Config) (k : Nat) (s : State) : Prop where
  cfg         : s.cfg = c
  capturing   : s.capturing = true
  primed      : s.primed = true
  activeIndex : s.activeIndex = k
  store       : s.store = FrameStore.empty

/-- A transaction moves the frame as its start condition does. -/
theorem exists_execAll_startBlock {s : State} (stops : Bool) (hcap : s.capturing = true) :
    ∃ t, execAll (startBlock stops) s = .next t ∧
      { t with busState := s.startCondition.busState, obs := s.startCondition.obs } = s.startCondition := by
  have hstart : exec busStart s = .next s.startCondition := exec_startCondition hcap
  cases stops with
  | false => exact ⟨s.startCondition, execAll_cons_next s hstart, rfl⟩
  | true =>
    obtain ⟨t, ht, hsame⟩ := exec_busStop (s.startCondition_capturing.trans hcap)
    exact ⟨t, (execAll_cons_next s hstart).trans (execAll_cons_next _ ht), hsame⟩

section blocks

variable {s : State} {c : Config}

/-- The first start condition of a session primes and leaves frame 0 active (R84). -/
theorem exists_startBlock_first (stops : Bool) (hcap : s.capturing = true) (h : s.Cleared) :
    ∃ t, execAll (startBlock stops) s = .next t ∧ OpenWithoutClock s.cfg 0 t := by
  obtain ⟨hstore, hact, -, -, hp⟩ := h
  obtain ⟨t, ht, hsame⟩ := exists_execAll_startBlock stops hcap
  rw [State.startCondition_priming hp] at hsame
  exact ⟨t, ht, (congrArg State.cfg hsame :), (congrArg State.capturing hsame :).trans hcap,
    (congrArg State.primed hsame :), (congrArg State.activeIndex hsame :).trans hact,
    (congrArg State.store hsame :).trans hstore⟩

/-- The next one opens the next frame, as long as there is one (R85). -/
theorem OpenWithoutClock.startBlock_nextFrame {k : Nat} (stops : Bool) (h : OpenWithoutClock c k s) (hM : k + 1 < c.M) :
    ∃ t, execAll (startBlock stops) s = .next t ∧ OpenWithoutClock c (k + 1) t := by
  obtain ⟨rfl, hcap, hp, rfl, hstore⟩ := h
  obtain ⟨t, ht, hsame⟩ := exists_execAll_startBlock stops hcap
  rw [State.startCondition_nextFrame hp hM] at hsame
  exact ⟨t, ht, (congrArg State.cfg hsame :), (congrArg State.capturing hsame :).trans hcap,
    (congrArg State.primed hsame :).trans hp, (congrArg State.activeIndex hsame :),
    (congrArg State.store hsame :).trans hstore⟩

/-- On the last frame it overflows (R86, D6). -/
theorem OpenWithoutClock.startBlock_overflow {k : Nat} (stops : Bool) (h : OpenWithoutClock c k s) (hM : c.M ≤ k + 1) :
    ∃ t, execAll (startBlock stops) s = .next t ∧ t.activeIndex = 0 ∧ t.store = FrameStore.empty := by
  obtain ⟨rfl, hcap, hp, rfl, -⟩ := h
  obtain ⟨t, ht, hsame⟩ := exists_execAll_startBlock stops hcap
  rw [State.startCondition_eq_overflowStart hp hM] at hsame
  exact ⟨t, ht, (congrArg State.activeIndex hsame :).trans s.overflowStart_activeIndex,
    (congrArg State.store hsame :).trans s.overflowStart_store⟩

/-- `k + 1` transactions after a session has begun, frame `k` is active. -/
theorem exists_startBlocks (stops : Bool) (hcap : s.capturing = true) (h : s.Cleared) {k : Nat} (hk : k < s.cfg.M) :
    ∃ t, execAll (List.replicate (k + 1) (startBlock stops)).flatten s = .next t ∧ OpenWithoutClock s.cfg k t := by
  induction k with
  | zero =>
    obtain ⟨t, ht, hopen⟩ := exists_startBlock_first stops hcap h
    exact ⟨t, by simpa using ht, hopen⟩
  | succ k ih =>
    obtain ⟨t, ht, hopen⟩ := ih (by omega)
    obtain ⟨u, hu, hopen'⟩ := hopen.startBlock_nextFrame stops hk
    rw [List.replicate_succ', List.flatten_concat, execAll_append_next ht]
    exact ⟨u, hu, hopen'⟩

end blocks

/-- Settles O52: each transaction up to the `M`-th opens the next frame, and one more overflows. -/
theorem oneStartConditionMoreThanFramesReturnsToCountOne :
    Obligations.OneStartConditionMoreThanFramesReturnsToCountOne := by
  intro s stops hcap hclear hM block
  refine ⟨fun k hk => ?upTo, ?oneMore⟩
  case upTo =>
    obtain ⟨t, ht, hopen⟩ := exists_startBlocks stops hcap hclear hk
    exact ⟨t, ht, hopen.activeIndex, congrArg (· + 1) hopen.activeIndex⟩
  case oneMore =>
    obtain ⟨t, ht, hopen⟩ := exists_startBlocks stops hcap hclear (Nat.sub_one_lt_of_lt hM)
    obtain ⟨u, hu, hact, hstore⟩ := hopen.startBlock_overflow stops (Nat.le_add_of_sub_le le_rfl)
    rw [Nat.sub_add_cancel hM] at ht
    rw [List.replicate_succ', List.flatten_concat]
    exact ⟨u, (execAll_append_next ht).trans hu, congrArg (· + 1) hact, hstore⟩

end Sys2Proof.Machine
end

section
/-! PROOFS. The canonical form of the sparse memory (20_memory.md section 1, log 13): what is read determines what is
listed. -/

namespace Sys2Proof.Machine

variable {α : Type} {d : α} {m m' : List (Nat × α)}

theorem Memory.mem_of_read_ne {x : Nat} (h : Memory.read d m x ≠ d) : (x, Memory.read d m x) ∈ m := by
  induction m with
  | nil => exact absurd rfl h
  | cons e m ih =>
    obtain ⟨a, v⟩ := e
    rw [Memory.read_cons] at h ⊢
    split
    · next hax => exact hax ▸ List.mem_cons_self
    · next hax =>
      rw [if_neg hax] at h
      exact List.mem_cons_of_mem _ (ih h)

theorem Memory.read_of_mem {e : Nat × α} (hm : (m.map Prod.fst).Pairwise (· < ·)) (he : e ∈ m) :
    Memory.read d m e.1 = e.2 := by
  induction m with
  | nil => exact absurd he List.not_mem_nil
  | cons f m ih =>
    obtain ⟨a, v⟩ := f
    rw [List.map_cons, List.pairwise_cons] at hm
    obtain ⟨hbelow, hrising⟩ := hm
    rw [Memory.read_cons]
    rcases List.mem_cons.1 he with rfl | he
    · exact if_pos rfl
    · rw [if_neg (hbelow e.1 (List.mem_map_of_mem he)).ne]
      exact ih hrising he

variable [DecidableEq α]

/-- A canonical memory lists exactly what reads as something else than an unlisted key. -/
theorem Memory.mem_iff_read (hm : Memory.wf d m) {e : Nat × α} : e ∈ m ↔ Memory.read d m e.1 = e.2 ∧ e.2 ≠ d := by
  obtain ⟨hrising, hlisted⟩ := hm
  refine ⟨fun he => ⟨Memory.read_of_mem hrising he, hlisted e he⟩, fun ⟨hread, hne⟩ => ?_⟩
  have hmem := Memory.mem_of_read_ne (hread ▸ hne)
  rwa [hread] at hmem

/-- Canonical memories that read alike list the same cells, and rising keys leave one order for them. -/
theorem Memory.eq_of_read_eq (hm : Memory.wf d m) (hm' : Memory.wf d m')
    (h : ∀ a, Memory.read d m a = Memory.read d m' a) : m = m' := by
  have hmem e : e ∈ m ↔ e ∈ m' := by rw [Memory.mem_iff_read hm, Memory.mem_iff_read hm', h]
  have hrising : m.Pairwise fun e f => e.1 < f.1 := List.pairwise_map.1 hm.1
  have hrising' : m'.Pairwise fun e f => e.1 < f.1 := List.pairwise_map.1 hm'.1
  have hperm : m.Perm m' :=
    (List.perm_ext_iff_of_nodup (hrising.imp fun hlt he => hlt.ne (congrArg Prod.fst he))
      (hrising'.imp fun hlt he => hlt.ne (congrArg Prod.fst he))).2 hmem
  exact hperm.eq_of_pairwise (fun _ _ _ _ hlt hgt => absurd hlt hgt.not_gt) hrising hrising'

/-- Settles O54: the byte memory is one such memory, with unlisted keys reading as zero. -/
theorem canonicalMemoriesThatReadAlikeAreEqual : Obligations.CanonicalMemoriesThatReadAlikeAreEqual :=
  fun _ _ => Memory.eq_of_read_eq

end Sys2Proof.Machine
end

section
/-! PROOFS. The statements about the encodings (30_encoding.md section 2) that follow from the decoder and the encoder being
inverse to each other. -/

namespace Sys2Proof

/-- Settles O1: no bit of an operation is dropped in its word. -/
theorem encodeThenDecodeGivesTheOperation : Obligations.EncodeThenDecodeGivesTheOperation := decodeWord_encode

/-- Settles O2: `opc`, `c` and `d` are all of a word whose zero field is clear. -/
theorem decodeThenEncodeGivesTheWord : Obligations.DecodeThenEncodeGivesTheWord := fun _ _ => encode_of_decodeWord

/-- Settles O4: each word written out is the encoding of its operation. -/
theorem patternsOfTheOpcodeMapDecode : Obligations.PatternsOfTheOpcodeMapDecode :=
  ⟨decodeWord_encode .nop, decodeWord_encode (.sdaEdge .high .low), decodeWord_encode (.sdaEdge .low .high),
    decodeWord_encode (.sclRise .low), decodeWord_encode (.sclRise .high), decodeWord_encode .cmdStart,
    decodeWord_encode .cmdStop, decodeWord_encode .cmdSelNext, decodeWord_encode .cmdSelPrev,
    decodeWord_encode .getFrameCount, decodeWord_encode .getBusState, decodeWord_encode .getFrame⟩

/-- The word of an operation is of one row, that of its mnemonic. -/
theorem rows_fitting_encode (i : Instr) :
    (opcodeRows.filter fun r => r.fits (encode i)).map OpRow.mnemonic = [i.mnemonic] := by
  cases i with
  | sdaEdge scl sda => cases scl <;> cases sda <;> rfl
  | sclRise sda => cases sda <;> rfl
  | _ => rfl

/-- A word that is of some row of R62 is one of the 14 of R65. -/
theorem mem_legalWords_of_fits : ∀ r ∈ opcodeRows, ∀ w : Byte, r.fits w = true → w ∈ legalWords := by decide

/-- Settles O5: a word that decodes is the encoding of its operation, and a reserved word is of no row. -/
theorem decoderReadsTheRowThatFits : Obligations.DecoderReadsTheRowThatFits := by
  intro w
  cases hw : decodeWord w with
  | instr i =>
    rw [← encode_of_decodeWord hw]
    exact rows_fitting_encode i
  | reserved why =>
    have hnone : opcodeRows.filter (fun r => r.fits w) = [] := by
      refine List.filter_eq_nil_iff.2 fun r hr hfits => ?_
      obtain ⟨i, hi⟩ := (decodes_iff_mem_legalWords w).2 (mem_legalWords_of_fits r hr w hfits)
      rw [hw] at hi
      cases hi
    rw [hnone]
    rfl

end Sys2Proof
end
